-- ==== Sys2Proof/Syntax.lean ====
section
/-! DEFINITION. The commands of the engine (30_encoding.md R81): one constructor per row of the opcode table. -/

namespace Sys2Proof

/-- The 13 commands. A command has no operand in its encoding (30_encoding.md R80, R82). -/
inductive Instr where
  /-- 0x00, 45_orchestrator.md R197. -/
  | nop
  /-- 0x01, 42_word_primitives.md R125. -/
  | rotword
  /-- 0x02, 42_word_primitives.md R126. -/
  | subword
  /-- 0x03, 42_word_primitives.md R127. -/
  | xorrcon
  /-- 0x04, 43_key_schedule.md R147. -/
  | keystep
  /-- 0x05, 44_state_transforms.md R170. -/
  | subbytes
  /-- 0x06, 44_state_transforms.md R171. -/
  | shiftrows
  /-- 0x07, 44_state_transforms.md R172. -/
  | mixcolumns
  /-- 0x08, 44_state_transforms.md R173. -/
  | arkLo
  /-- 0x09, 44_state_transforms.md R174. -/
  | arkHi
  /-- 0x0A, 45_orchestrator.md R191. -/
  | encInit
  /-- 0x0B, 45_orchestrator.md R192. -/
  | encStep
  /-- 0x0C, 45_orchestrator.md R193. -/
  | encrypt
  deriving DecidableEq, Repr

end Sys2Proof
end

