-- ==== Sys2Proof/Word.lean ====
section
/-! DEFINITION. The data types of the engine: bytes, window addresses and the three fixed-size buffers. -/

namespace Sys2Proof

/-- A byte: an unsigned integer 0..255, bit 0 the least significant (00_scope.md R11). -/
abbrev Byte := BitVec 8

/-- A byte address of the 64-byte register window, 0x00 to 0x3F (20_memory.md R60). -/
abbrev Addr := BitVec 6

/-- A word: a list of 4 bytes, the first byte at index 0 (00_scope.md R12). -/
abbrev Word := Vector Byte 4

/-- The 16 bytes of a block or of `STATE` (00_scope.md R9, 10_state.md R22). -/
abbrev Block := Vector Byte 16

/-- The 32 bytes of `KEY` (00_scope.md R9, 10_state.md R21). -/
abbrev KeyBuffer := Vector Byte 32

end Sys2Proof
end

