-- ==== Sys2Proof/Decode.lean ====
section
/-! DEFINITION. Decoding and encoding of command bytes (30_encoding.md R80 to R88). -/

namespace Sys2Proof

/-- Why bytes are no command. -/
inductive DecodeError where
  /-- There is no byte to decode. -/
  | noByte
  /-- The byte is one of 0x0D to 0xFF (30_encoding.md R87). -/
  | illegalCommand (v : Byte)
  deriving DecidableEq, Repr

/-- What the decoder answers: a command and the bytes after it, or a rejection by name. -/
inductive Decoded where
  | command (i : Instr) (rest : List Byte)
  | rejected (e : DecodeError)
  deriving DecidableEq, Repr

/-- The opcode map of 30_encoding.md R81: all eight bits are the opcode. -/
def commandOf (v : Byte) : Option Instr :=
  match v.toNat with
  | 0x00 => some .nop
  | 0x01 => some .rotword
  | 0x02 => some .subword
  | 0x03 => some .xorrcon
  | 0x04 => some .keystep
  | 0x05 => some .subbytes
  | 0x06 => some .shiftrows
  | 0x07 => some .mixcolumns
  | 0x08 => some .arkLo
  | 0x09 => some .arkHi
  | 0x0A => some .encInit
  | 0x0B => some .encStep
  | 0x0C => some .encrypt
  | _ => none

/-- The decoder reads exactly one byte per command (30_encoding.md R88) and rejects every other byte by name
(30_encoding.md R87). -/
def decode : List Byte → Decoded
  | [] => .rejected .noByte
  | v :: rest =>
    match commandOf v with
    | some i => .command i rest
    | none => .rejected (.illegalCommand v)

/-- The command a decoder's answer holds, if it holds one. -/
def Decoded.instr? : Decoded → Option Instr
  | .command i _ => some i
  | .rejected _ => none

/-- The command byte of each command (30_encoding.md R81). -/
def opcode : Instr → Byte
  | .nop => 0x00
  | .rotword => 0x01
  | .subword => 0x02
  | .xorrcon => 0x03
  | .keystep => 0x04
  | .subbytes => 0x05
  | .shiftrows => 0x06
  | .mixcolumns => 0x07
  | .arkLo => 0x08
  | .arkHi => 0x09
  | .encInit => 0x0A
  | .encStep => 0x0B
  | .encrypt => 0x0C

/-- The encoding of a command: always one byte (30_encoding.md R80). -/
def encode (i : Instr) : List Byte := [opcode i]

/-- The lowest `n` bytes of `w`, least significant first. -/
def lowBytes : Nat → Nat → List Byte
  | 0, _ => []
  | n + 1, w => BitVec.ofNat 8 w :: lowBytes n (w / 256)

/-- A table word of `nbits` bits laid out as bytes, bit 0 in the first byte; bits from `nbits` up are 0 and the
longest command, one byte, is always filled. -/
def tableBytes (nbits w : Nat) : List Byte :=
  lowBytes (max 1 ((nbits + 7) / 8)) (w % 2 ^ nbits)

/-- The command the decoder reads from a word numbered as the opcode table numbers it. -/
def decodeTableWord (nbits w : Nat) : Option Instr :=
  (decode (tableBytes nbits w)).instr?

end Sys2Proof
end

