-- ==== Sys2Proof/Config.lean ====
section
/-! DEFINITION. What one built block fixes and the spec leaves OPEN (00_scope.md R10). Nothing here has a value
a proof can see. -/

namespace Sys2Proof

/-- `WINDOW_BASE`: the host address of window offset 0x00, OPEN (00_scope.md R10, 20_memory.md R60). -/
opaque Config.windowBase : Nat

/-- How far `LAT(op)` exceeds its minimum of one cycle: OPEN, a function of the opcode alone
(00_scope.md R10, 70_reset_and_hazards.md R261). -/
opaque Config.latencyBeyondOne : Instr → Nat

/-- `LAT(op)`: engine cycles from acceptance to completion, an integer of at least 1 that depends on the opcode
alone. No rule of the model reads it (70_reset_and_hazards.md R261). -/
def Config.latency (i : Instr) : Nat := Config.latencyBeyondOne i + 1

end Sys2Proof
end

