-- ==== Sys2Proof/Machine/State.lean ====
section
/-! DEFINITION. The state of the machine, the ways a step can stop, and the state after reset. -/

namespace Sys2Proof.Machine

/-- One event of the outside world or one turn of the engine (00_scope.md R15). The host step and the engine step
are the only transitions; reset is an external event. -/
inductive Event where
  /-- The host performs `MemRead(a, 1)` (20_memory.md R62, R64). -/
  | read (a : Addr)
  /-- The host performs `MemWrite(a, 1, v)` (20_memory.md R63, R65). -/
  | write (a : Addr) (v : Byte)
  /-- The engine takes its step: the pending command completes, if there is one (30_encoding.md R85). -/
  | engine
  /-- Reset, or power-up (70_reset_and_hazards.md R250, 60_exceptions.md R237). -/
  | reset
  deriving DecidableEq, Repr

/-- The three error conditions (60_exceptions.md R221); each has one sticky `STATUS` flag. -/
inductive ErrFlag where
  /-- Code 1, `ERR_ILL`: an illegal command byte written to `CMD` while idle. -/
  | ill
  /-- Code 2, `ERR_BUSY`: a write to an address other than `STATUS` while busy. -/
  | busy
  /-- Code 3, `ERR_SEQ`: an ENC_STEP completing with `ITER` outside 1..59. -/
  | seq
  deriving DecidableEq, Repr

/-- The state of the machine (10_state.md R45). `BUSY` is `pend ≠ none` and is computed (10_state.md R40).
`inputs` and `reads` are the model's own: the events still to come and the bytes the bus has returned. -/
structure State where
  /-- `KEY[0..31]` (10_state.md R21). -/
  key : KeyBuffer
  /-- `STATE[0..15]` (10_state.md R22). -/
  state : Block
  /-- `WORD[0..3]` (10_state.md R26). -/
  word : Word
  /-- `WIDX` (10_state.md R28). -/
  widx : Byte
  /-- `ITER` (10_state.md R27). -/
  iter : Byte
  /-- `SBOX_IN` (10_state.md R36). -/
  sboxIn : Byte
  /-- `STATUS` bit 1 (10_state.md R31). -/
  errIll : Bool
  /-- `STATUS` bit 2 (10_state.md R32). -/
  errBusy : Bool
  /-- `STATUS` bit 3 (10_state.md R33). -/
  errSeq : Bool
  /-- `PEND`, the accepted command not yet completed (10_state.md R40). -/
  pend : Option Instr
  /-- MODEL's own (DESIGN CHOICE, log entries 1 and 6): the events still to come, the next one first. -/
  inputs : List Event
  /-- MODEL's own (DESIGN CHOICE, log entry 6): the bytes returned to the host so far, oldest first. -/
  reads : List Byte
  deriving DecidableEq, Repr

/-- How the machine can stop with a fault: it cannot. The engine "never stops, halts or locks up"
(60_exceptions.md R220), so nothing raises a fault and the type has no value (safe: every step goes on). -/
inductive Fault where
  deriving DecidableEq, Repr

/-- Why a step is refused. -/
inductive Refusal where
  /-- Raised only by an arm of `exec` whose command has no meaning yet; no arm is such an arm (safe: the model
  stops where the hardware goes on). -/
  | notModelled (mnemonic : String)
  deriving DecidableEq, Repr

/-- The state after reset: every field 0, no flag set, nothing pending (10_state.md R45,
70_reset_and_hazards.md R250). The model's own fields are empty (log entry 6). -/
def State.reset : State where
  key := Vector.replicate 32 0
  state := Vector.replicate 16 0
  word := Vector.replicate 4 0
  widx := 0
  iter := 0
  sboxIn := 0
  errIll := false
  errBusy := false
  errSeq := false
  pend := none
  inputs := []
  reads := []

end Sys2Proof.Machine
end

