-- ==== Sys2Proof/Machine/Flags.lean ====
section
/-! DEFINITION. The `STATUS` register: `BUSY`, the three error flags and the byte the host reads. -/

namespace Sys2Proof.Machine

/-- `STATUS.BUSY`: 1 exactly when `PEND ≠ none` (10_state.md R30, R40). -/
def State.busy (s : State) : Bool := s.pend.isSome

/-- The flag of an error condition (60_exceptions.md R221). -/
def State.flag (s : State) : ErrFlag → Bool
  | .ill => s.errIll
  | .busy => s.errBusy
  | .seq => s.errSeq

/-- The code of an error condition, the number of its `STATUS` bit (60_exceptions.md R221). -/
def ErrFlag.code : ErrFlag → Nat
  | .ill => 1
  | .busy => 2
  | .seq => 3

/-- The byte read from `STATUS`: `ERR_SEQ·8 + ERR_BUSY·4 + ERR_ILL·2 + BUSY`; bits 7:4 read 0
(10_state.md R34, R35). -/
def statusByte (s : State) : Byte :=
  BitVec.ofNat 8 (8 * s.errSeq.toNat + 4 * s.errBusy.toNat + 2 * s.errIll.toNat + s.busy.toNat)

end Sys2Proof.Machine
end

