-- ==== Sys2Proof/Machine/Operands.lean ====
section
/-! DEFINITION. The operand forms: the register map of the window, bytewise XOR, key words, key halves and the
4 × 4 byte matrix. -/

namespace Sys2Proof.Machine

/-- What stands at an address of the register window (10_state.md R20). -/
inductive WindowReg where
  | key (k : Fin 32)
  | state (k : Fin 16)
  | cmd
  | status
  | widx
  | iter
  | word (k : Fin 4)
  | sboxIn
  | sboxOut
  | sboxDelta
  | reserved
  deriving DecidableEq, Repr

/-- The register map of 10_state.md R20: byte `k` of a multi-byte register is at its base + `k`
(20_memory.md R67). -/
def decodeAddr (a : Addr) : WindowReg :=
  if hk : a.toNat < 0x20 then .key ⟨a.toNat, hk⟩
  else if hs : a.toNat < 0x30 then .state ⟨a.toNat - 0x20, by omega⟩
  else if h0 : a.toNat = 0x30 then .cmd
  else if h1 : a.toNat = 0x31 then .status
  else if h2 : a.toNat = 0x32 then .widx
  else if h3 : a.toNat = 0x33 then .iter
  else if hw : a.toNat < 0x38 then .word ⟨a.toNat - 0x34, by omega⟩
  else if a.toNat = 0x38 then .sboxIn
  else if a.toNat = 0x39 then .sboxOut
  else if a.toNat = 0x3A then .sboxDelta
  else .reserved

/-- Bytewise exclusive-or of byte lists of equal length (00_scope.md R13). -/
def xorBytes {n : Nat} (a b : Vector Byte n) : Vector Byte n :=
  Vector.ofFn fun k => a[k] ^^^ b[k]

/-- The key slot of word index `j`, `j mod 8` (00_scope.md R17). -/
def slot (j : Nat) : Fin 8 := ⟨j % 8, by omega⟩

/-- `KW(w) = [KEY[4w], KEY[4w+1], KEY[4w+2], KEY[4w+3]]` (00_scope.md R12, 10_state.md R21). -/
def keyWord (key : KeyBuffer) (w : Fin 8) : Word :=
  Vector.ofFn fun k : Fin 4 => key[4 * w.val + k.val]

/-- `KW(w) <- v`: writes those four bytes and no other (00_scope.md R12). -/
def setKeyWord (key : KeyBuffer) (w : Fin 8) (v : Word) : KeyBuffer :=
  Vector.ofFn fun k : Fin 32 => if k.val / 4 = w.val then v[k.val % 4]'(by omega) else key[k]

/-- The two 16-byte halves of `KEY` (10_state.md R24). -/
inductive Half where
  /-- Bytes 0 to 15, key words 0 to 3. -/
  | lo
  /-- Bytes 16 to 31, key words 4 to 7. -/
  | hi
  deriving DecidableEq, Repr

/-- The 16 bytes of a half: `KEY[16h + k]` with `h = 0` for the low half (10_state.md R24,
44_state_transforms.md R165). -/
def keyHalf (key : KeyBuffer) : Half → Block
  | .lo => Vector.ofFn fun k : Fin 16 => key[k.val]
  | .hi => Vector.ofFn fun k : Fin 16 => key[16 + k.val]

/-- The state byte at row `r` and column `c`, `STATE[r + 4c]` (10_state.md R23). -/
def cell (s : Block) (r c : Fin 4) : Byte := s[r.val + 4 * c.val]

/-- The block whose byte at row `r` and column `c` is `f r c` (10_state.md R23). -/
def ofCells (f : Fin 4 → Fin 4 → Byte) : Block :=
  Vector.ofFn fun k : Fin 16 => f ⟨k.val % 4, by omega⟩ ⟨k.val / 4, by omega⟩

end Sys2Proof.Machine
end

