-- ==== Sys2Proof/Machine/Substitution.lean ====
section
/-! DEFINITION. The substitution unit: the read-only XOR-delta table and substitution (41_substitution.md). -/

namespace Sys2Proof.Machine

/-- The 256-byte table the engine stores, row `hi` and column `lo` holding `DELTA(16·hi + lo)`
(41_substitution.md R101, 10_state.md R42). -/
def deltaTable : Vector (Vector Byte 16) 16 :=
  #v[#v[0x63, 0x7D, 0x75, 0x78, 0xF6, 0x6E, 0x69, 0xC2, 0x38, 0x08, 0x6D, 0x20, 0xF2, 0xDA, 0xA5, 0x79],
     #v[0xDA, 0x93, 0xDB, 0x6E, 0xEE, 0x4C, 0x51, 0xE7, 0xB5, 0xCD, 0xB8, 0xB4, 0x80, 0xB9, 0x6C, 0xDF],
     #v[0x97, 0xDC, 0xB1, 0x05, 0x12, 0x1A, 0xD1, 0xEB, 0x1C, 0x8C, 0xCF, 0xDA, 0x5D, 0xF5, 0x1F, 0x3A],
     #v[0x34, 0xF6, 0x11, 0xF0, 0x2C, 0xA3, 0x33, 0xAD, 0x3F, 0x2B, 0xBA, 0xD9, 0xD7, 0x1A, 0x8C, 0x4A],
     #v[0x49, 0xC2, 0x6E, 0x59, 0x5F, 0x2B, 0x1C, 0xE7, 0x1A, 0x72, 0x9C, 0xF8, 0x65, 0xAE, 0x61, 0xCB],
     #v[0x03, 0x80, 0x52, 0xBE, 0x74, 0xA9, 0xE7, 0x0C, 0x32, 0x92, 0xE4, 0x62, 0x16, 0x11, 0x06, 0x90],
     #v[0xB0, 0x8E, 0xC8, 0x98, 0x27, 0x28, 0x55, 0xE2, 0x2D, 0x90, 0x68, 0x14, 0x3C, 0x51, 0xF1, 0xC7],
     #v[0x21, 0xD2, 0x32, 0xFC, 0xE6, 0xE8, 0x4E, 0x82, 0xC4, 0xCF, 0xA0, 0x5A, 0x6C, 0x82, 0x8D, 0xAD],
     #v[0x4D, 0x8D, 0x91, 0x6F, 0xDB, 0x12, 0xC2, 0x90, 0x4C, 0x2E, 0xF4, 0xB6, 0xE8, 0xD0, 0x97, 0xFC],
     #v[0xF0, 0x10, 0xDD, 0x4F, 0xB6, 0xBF, 0x06, 0x1F, 0xDE, 0x77, 0x22, 0x8F, 0x42, 0xC3, 0x95, 0x44],
     #v[0x40, 0x93, 0x98, 0xA9, 0xED, 0xA3, 0x82, 0xFB, 0x6A, 0x7A, 0x06, 0xC9, 0x3D, 0x38, 0x4A, 0xD6],
     #v[0x57, 0x79, 0x85, 0xDE, 0x39, 0x60, 0xF8, 0x1E, 0xD4, 0xEF, 0x4E, 0x51, 0xD9, 0xC7, 0x10, 0xB7],
     #v[0x7A, 0xB9, 0xE7, 0xED, 0xD8, 0x63, 0x72, 0x01, 0x20, 0x14, 0xBE, 0xD4, 0x87, 0x70, 0x45, 0x45],
     #v[0xA0, 0xEF, 0x67, 0xB5, 0x9C, 0xD6, 0x20, 0xD9, 0xB9, 0xEC, 0x8D, 0x62, 0x5A, 0x1C, 0xC3, 0x41],
     #v[0x01, 0x19, 0x7A, 0xF2, 0x8D, 0x3C, 0x68, 0x73, 0x73, 0xF7, 0x6D, 0x02, 0x22, 0xB8, 0xC6, 0x30],
     #v[0x7C, 0x50, 0x7B, 0xFE, 0x4B, 0x13, 0xB4, 0x9F, 0xB9, 0x60, 0xD7, 0xF4, 0x4C, 0xA9, 0x45, 0xE9]]

/-- `DELTA(x)` (41_substitution.md R101). -/
def delta (x : Byte) : Byte :=
  (deltaTable[x.toNat / 16]'(by have := x.isLt; omega))[x.toNat % 16]'(by omega)

/-- Substitution of a byte, `x ^ DELTA(x)`, the one function every substitution uses (41_substitution.md R102). -/
def substitute (x : Byte) : Byte := x ^^^ delta x

end Sys2Proof.Machine
end

