-- ==== Sys2Proof/Machine/Ops.lean ====
section
/-! DEFINITION. The shared operations: raising and acknowledging an error condition, accepting and retiring a
command, host reads and writes of the register window, reset. -/

namespace Sys2Proof.Machine

/-- Every error condition does only this: it sets one sticky `STATUS` flag (60_exceptions.md R220, R221). There is no
trap entry: nothing is saved and no mode changes (60_exceptions.md R225). -/
def State.raiseErr (s : State) : ErrFlag → State
  | .ill => { s with errIll := true }
  | .busy => { s with errBusy := true }
  | .seq => { s with errSeq := true }

/-- Acknowledging error conditions: a `STATUS` write of `v` clears each flag whose bit of `v` is set and changes
nothing else (10_state.md R35, 60_exceptions.md R226). -/
def State.acknowledge (s : State) (v : Byte) : State :=
  { s with
    errIll := s.errIll && !v.getLsbD 1
    errBusy := s.errBusy && !v.getLsbD 2
    errSeq := s.errSeq && !v.getLsbD 3 }

/-- A bus access of the host, as against a completion or a reset (00_scope.md R15, 70_reset_and_hazards.md R263). -/
def Event.isAccess : Event → Bool
  | .read _ => true
  | .write _ _ => true
  | .engine => false
  | .reset => false

/-- Acceptance: `PEND <- op`, which sets `BUSY`, and nothing else (30_encoding.md R84). -/
def State.accept (s : State) (i : Instr) : State := { s with pend := some i }

/-- The end of every completion: `PEND <- none`, which clears `BUSY` (30_encoding.md R85). -/
def State.retire (s : State) : State := { s with pend := none }

/-- A write of `v` to `CMD` while idle: a legal byte is accepted (30_encoding.md R84), any other sets `ERR_ILL`
(30_encoding.md R83). -/
def State.command (s : State) (v : Byte) : State :=
  match decode [v] with
  | .command i _ => s.accept i
  | .rejected _ => s.raiseErr .ill

/-- What the host reads at a register while `BUSY = 0` (20_memory.md R62). -/
def State.windowReg (s : State) : WindowReg → Byte
  | .key k => s.key[k]
  | .state k => s.state[k]
  | .cmd => 0
  | .status => statusByte s
  | .widx => s.widx
  | .iter => s.iter
  | .word k => s.word[k]
  | .sboxIn => s.sboxIn
  | .sboxOut => substitute s.sboxIn
  | .sboxDelta => delta s.sboxIn
  | .reserved => 0

/-- What the register window holds at `a`: the table of 20_memory.md R62. -/
def State.window (s : State) (a : Addr) : Byte := s.windowReg (decodeAddr a)

/-- The value `MemRead(a, 1)` returns: the window while idle (20_memory.md R62); while busy `STATUS` alone is live and
every other address reads 0x00 (20_memory.md R64). -/
def State.memRead (s : State) (a : Addr) : Byte :=
  if s.busy ∧ decodeAddr a ≠ .status then 0 else s.window a

/-- A host write while `BUSY = 0` (20_memory.md R63); read-only and reserved addresses ignore it
(20_memory.md R66, 10_state.md R39). -/
def State.writeReg (s : State) (v : Byte) : WindowReg → State
  | .key k => { s with key := s.key.set k.val v }
  | .state k => { s with state := s.state.set k.val v }
  | .cmd => s.command v
  | .status => s.acknowledge v
  | .widx => { s with widx := v }
  | .iter => s
  | .word k => { s with word := s.word.set k.val v }
  | .sboxIn => { s with sboxIn := v }
  | .sboxOut => s
  | .sboxDelta => s
  | .reserved => s

/-- `MemWrite(a, 1, v)`: while busy every write but one to `STATUS` is dropped and sets `ERR_BUSY`; the busy check
comes before the command decode (20_memory.md R63, R65, 60_exceptions.md R223). -/
def State.memWrite (s : State) (a : Addr) (v : Byte) : State :=
  if s.busy ∧ decodeAddr a ≠ .status then s.raiseErr .busy else s.writeReg v (decodeAddr a)

/-- A host read as an event: the value goes to the host and nothing of the engine changes (20_memory.md R62, R69). -/
def State.hostRead (s : State) (a : Addr) : State := { s with reads := s.reads ++ [s.memRead a] }

/-- Reset: every field of the engine takes its reset value, whether idle or busy, and a pending command is discarded
(70_reset_and_hazards.md R250). What the host has read and what is still to come are not the engine's (log entry 6). -/
def State.resetEngine (s : State) : State :=
  { State.reset with inputs := s.inputs, reads := s.reads }

/-- The platform's decoder: the window offset of a host address, `host_address - WINDOW_BASE` (20_memory.md R60). An
address outside the 64 has none (DEDUCED, log entry 7). -/
def windowOffset (hostAddress : Nat) : Option Addr :=
  if Config.windowBase ≤ hostAddress ∧ hostAddress < Config.windowBase + 64 then
    some (BitVec.ofNat 6 (hostAddress - Config.windowBase))
  else none

end Sys2Proof.Machine
end

