-- ==== Sys2Proof/Machine/WordPrimitives.lean ====
section
/-! DEFINITION. The word primitives RotWord, SubWord and XorRCon and their three commands (42_word_primitives.md). -/

namespace Sys2Proof.Machine

/-- `RotWord([a0, a1, a2, a3]) = [a1, a2, a3, a0]` (42_word_primitives.md R120). -/
def rotWord (w : Word) : Word := #v[w[1], w[2], w[3], w[0]]

/-- `SubWord`: substitution of each byte (42_word_primitives.md R121). -/
def subWord (w : Word) : Word := Vector.ofFn fun k => substitute w[k]

/-- `Rcon(j)`: with `k = j div 8`, `1 << (k - 1)` for k = 1..8 and 0x00 for k = 0 and k ≥ 9
(42_word_primitives.md R122). -/
def rcon (j : Nat) : Byte :=
  if 1 ≤ j / 8 ∧ j / 8 ≤ 8 then 1 <<< (j / 8 - 1) else 0

/-- `XorRCon(j, [a0, a1, a2, a3]) = [a0 ^ Rcon(j), a1, a2, a3]` (42_word_primitives.md R123). -/
def xorRcon (j : Nat) (w : Word) : Word := #v[w[0] ^^^ rcon j, w[1], w[2], w[3]]

/-- ROTWORD (42_word_primitives.md R125). -/
def execRotword (s : State) : Host.Outcome State Fault Refusal :=
  .next (State.retire { s with word := rotWord s.word })

/-- SUBWORD (42_word_primitives.md R126). -/
def execSubword (s : State) : Host.Outcome State Fault Refusal :=
  .next (State.retire { s with word := subWord s.word })

/-- XORRCON, with `WIDX` as the round index (42_word_primitives.md R127). -/
def execXorrcon (s : State) : Host.Outcome State Fault Refusal :=
  .next (State.retire { s with word := xorRcon s.widx.toNat s.word })

end Sys2Proof.Machine
end

