-- ==== Sys2Proof/Machine/KeySchedule.lean ====
section
/-! DEFINITION. The in-place key schedule generator and KEYSTEP (43_key_schedule.md). -/

namespace Sys2Proof.Machine

/-- What the generator applies to its scratch copy of the source word (43_key_schedule.md R142). -/
def scratchTransform (j : Nat) (scratch : Word) : Word :=
  if j % 8 = 0 then xorRcon j (subWord (rotWord scratch))
  else if j % 8 = 4 then subWord scratch
  else scratch

/-- `KeyGen(j)`: nothing for `j < 8` (43_key_schedule.md R141); otherwise `KW(q) <- KW(q) ^ scratch`, with source slot
`(j - 1) mod 8` and sink slot `q = j mod 8` (43_key_schedule.md R142). -/
def keyGen (j : Nat) (key : KeyBuffer) : KeyBuffer :=
  if j < 8 then key
  else
    setKeyWord key (slot j)
      (xorBytes (keyWord key (slot j)) (scratchTransform j (keyWord key (slot (j - 1)))))

/-- KEYSTEP: `KeyGen(WIDX)`, then `WIDX <- (WIDX + 1) mod 256` (43_key_schedule.md R147). -/
def execKeystep (s : State) : Host.Outcome State Fault Refusal :=
  .next (State.retire { s with key := keyGen s.widx.toNat s.key, widx := s.widx + 1 })

end Sys2Proof.Machine
end

