-- ==== Sys2Proof/Machine/StateTransforms.lean ====
section
/-! DEFINITION. The state transforms SubBytes, ShiftRows, MixColumns and AddRoundKey and their five commands
(44_state_transforms.md). Every byte of a result is computed from the block as it was before. -/

namespace Sys2Proof.Machine

/-- `SubBytes(s)[k] = s[k] ^ DELTA(s[k])` (44_state_transforms.md R160). -/
def subBytes (s : Block) : Block := Vector.ofFn fun k => substitute s[k]

/-- `ShiftRows(s)[r + 4c] = s[r + 4·((c + r) mod 4)]`; the sum of two elements of `Fin 4` is taken modulo 4
(44_state_transforms.md R161). -/
def shiftRows (s : Block) : Block := ofCells fun r c => cell s r (c + r)

/-- Multiplication by 2 in GF(2^8): the shift drops bit 7 before the XOR with 0x1B (44_state_transforms.md R162). -/
def xtime (b : Byte) : Byte := if b.getLsbD 7 then (b <<< 1) ^^^ 0x1B else b <<< 1

/-- `A = c_0 ^ c_1 ^ c_2 ^ c_3` of column `c` (44_state_transforms.md R163). -/
def columnXor (s : Block) (c : Fin 4) : Byte := cell s 0 c ^^^ cell s 1 c ^^^ cell s 2 c ^^^ cell s 3 c

/-- `MixColumns(s)[4c + j] = c_j ^ xtime(c_j ^ c_{(j+1) mod 4}) ^ A` (44_state_transforms.md R163). -/
def mixColumns (s : Block) : Block :=
  ofCells fun j c => cell s j c ^^^ xtime (cell s j c ^^^ cell s (j + 1) c) ^^^ columnXor s c

/-- `AddRoundKey(s, h)[k] = s[k] ^ KEY[16h + k]` (44_state_transforms.md R165). -/
def addRoundKey (s : Block) (key : KeyBuffer) (h : Half) : Block := xorBytes s (keyHalf key h)

/-- `Round(s, h, mix)` (44_state_transforms.md R175). -/
def cipherRound (s : Block) (key : KeyBuffer) (h : Half) (mix : Bool) : Block :=
  addRoundKey (if mix then mixColumns (shiftRows (subBytes s)) else shiftRows (subBytes s)) key h

/-- SUBBYTES (44_state_transforms.md R170). -/
def execSubbytes (s : State) : Host.Outcome State Fault Refusal :=
  .next (State.retire { s with state := subBytes s.state })

/-- SHIFTROWS (44_state_transforms.md R171). -/
def execShiftrows (s : State) : Host.Outcome State Fault Refusal :=
  .next (State.retire { s with state := shiftRows s.state })

/-- MIXCOLUMNS (44_state_transforms.md R172). -/
def execMixcolumns (s : State) : Host.Outcome State Fault Refusal :=
  .next (State.retire { s with state := mixColumns s.state })

/-- ARK_LO (44_state_transforms.md R173). -/
def execArkLo (s : State) : Host.Outcome State Fault Refusal :=
  .next (State.retire { s with state := addRoundKey s.state s.key .lo })

/-- ARK_HI (44_state_transforms.md R174). -/
def execArkHi (s : State) : Host.Outcome State Fault Refusal :=
  .next (State.retire { s with state := addRoundKey s.state s.key .hi })

end Sys2Proof.Machine
end

