-- ==== Sys2Proof/Machine/Driver.lean ====
section
/-! DEFINITION. The encryption driver: ENC_INIT, ENC_STEP, ENCRYPT, and NOP (45_orchestrator.md). -/

namespace Sys2Proof.Machine

/-- The phases of a driver iteration (45_orchestrator.md R190). Every phase also expands the schedule by one word. -/
inductive Phase where
  | expandOnly
  | transformFirstHalf
  | transformSecondHalf
  deriving DecidableEq, Repr

/-- `phase(i)` (45_orchestrator.md R190). -/
def phase (i : Nat) : Phase :=
  if i % 8 = 0 then .transformFirstHalf
  else if (i + 4) % 8 = 0 then .transformSecondHalf
  else .expandOnly

/-- `LOOP_LAST`: the driver iterates i = 1..59 (00_scope.md R9). -/
def loopLast : Nat := 59

/-- `WORD_INDEX_OFFSET`: iteration `i` generates word `i + 4` (00_scope.md R9). -/
def wordIndexOffset : Nat := 4

/-- `final(i)`: the round of iteration 56 omits column mixing (45_orchestrator.md R190). -/
def finalIteration (i : Nat) : Bool := i == 56

/-- The round of iteration `i`, on the key after that iteration's generator step (45_orchestrator.md R192). -/
def iterationRound (i : Nat) (key : KeyBuffer) (s : Block) : Block :=
  match phase i with
  | .transformFirstHalf => cipherRound s key .lo (!finalIteration i)
  | .transformSecondHalf => cipherRound s key .hi true
  | .expandOnly => s

/-- The body of ENC_INIT (45_orchestrator.md R191). -/
def State.encInitBody (s : State) : State :=
  { s with state := addRoundKey s.state s.key .lo, iter := 1 }

/-- One iteration of the driver at `i = ITER` in range: the generator step first, the round second
(45_orchestrator.md R192). -/
def State.iterate (s : State) : State :=
  let key := keyGen (s.iter.toNat + wordIndexOffset) s.key
  { s with key := key, state := iterationRound s.iter.toNat key s.state, iter := s.iter + 1 }

/-- The body of ENC_STEP: with `ITER` outside 1..59 it sets `ERR_SEQ` and changes nothing else
(45_orchestrator.md R192). -/
def State.encStepBody (s : State) : State :=
  if s.iter.toNat < 1 ∨ loopLast < s.iter.toNat then s.raiseErr .seq else s.iterate

/-- The body of ENC_STEP, `n` times in a row (45_orchestrator.md R193). -/
def State.encSteps : Nat → State → State
  | 0, s => s
  | n + 1, s => State.encSteps n s.encStepBody

/-- NOP: no statement; completion only clears `BUSY` (45_orchestrator.md R197). -/
def execNop (s : State) : Host.Outcome State Fault Refusal := .next s.retire

/-- ENC_INIT (45_orchestrator.md R191). -/
def execEncInit (s : State) : Host.Outcome State Fault Refusal := .next s.encInitBody.retire

/-- ENC_STEP (45_orchestrator.md R192). -/
def execEncStep (s : State) : Host.Outcome State Fault Refusal := .next s.encStepBody.retire

/-- ENCRYPT: the body of ENC_INIT, then the body of ENC_STEP 59 times, as one completion (45_orchestrator.md R193). -/
def execEncrypt (s : State) : Host.Outcome State Fault Refusal :=
  .next (State.encSteps loopLast s.encInitBody).retire

end Sys2Proof.Machine
end

