-- ==== Sys2Proof/Machine/Dispatch.lean ====
section
/-! DEFINITION. The completion of a command: one arm per constructor of Instr, one meaning per arm. -/

namespace Sys2Proof.Machine

/-- The completion step of command `i` (30_encoding.md R85): the rule of `i` on the current registers, then
`PEND <- none`. -/
def exec (i : Instr) (s : State) : Host.Outcome State Fault Refusal :=
  match i with
  | .nop => Sys2Proof.Machine.execNop s
  | .rotword => Sys2Proof.Machine.execRotword s
  | .subword => Sys2Proof.Machine.execSubword s
  | .xorrcon => Sys2Proof.Machine.execXorrcon s
  | .keystep => Sys2Proof.Machine.execKeystep s
  | .subbytes => Sys2Proof.Machine.execSubbytes s
  | .shiftrows => Sys2Proof.Machine.execShiftrows s
  | .mixcolumns => Sys2Proof.Machine.execMixcolumns s
  | .arkLo => Sys2Proof.Machine.execArkLo s
  | .arkHi => Sys2Proof.Machine.execArkHi s
  | .encInit => Sys2Proof.Machine.execEncInit s
  | .encStep => Sys2Proof.Machine.execEncStep s
  | .encrypt => Sys2Proof.Machine.execEncrypt s

end Sys2Proof.Machine
end

