-- ==== Sys2Proof/Machine/Step.lean ====
section
/-! DEFINITION. One step of the machine: the next event of the outside world, or the engine's completion step. -/

namespace Sys2Proof.Machine

/-- The engine's turn: the pending command completes (30_encoding.md R85); an idle engine does nothing. -/
def engineTurn (s : State) : Host.Outcome State Fault Refusal :=
  match s.pend with
  | some i => exec i s
  | none => .next s

/-- One step (00_scope.md R15, 20_memory.md R70): the next event takes effect, one at a time. With no event left the
engine takes its turn, which is the fair completion of 70_reset_and_hazards.md R262 (DESIGN CHOICE, log entry 2). -/
def step (s : State) : Host.Outcome State Fault Refusal :=
  match s.inputs with
  | [] => engineTurn s
  | .engine :: rest => engineTurn { s with inputs := rest }
  | .read a :: rest => .next (State.hostRead { s with inputs := rest } a)
  | .write a v :: rest => .next (State.memWrite { s with inputs := rest } a v)
  | .reset :: rest => .next (State.resetEngine { s with inputs := rest })

/-- The machine about to run the command of a table word: the command accepted and the engine's turn next. A word
that is no command is never accepted: its byte is what the host writes to an idle `CMD` next (log entry 3). -/
def State.withFetchWord (s : State) (nbits w : Nat) : State :=
  match decodeTableWord nbits w with
  | some i => { s with pend := some i, inputs := .engine :: s.inputs }
  | none => { s with pend := none, inputs := .write 0x30 ((tableBytes nbits w).headD 0) :: s.inputs }

end Sys2Proof.Machine
end

