-- ==== Sys2Proof/Machine/Reference.lean ====
section
/-! DEFINITION. What the claims compare the engine with: the S-box of 41_substitution.md R100 and R104, the schedule
words of 43_key_schedule.md R145, the matrix form of MixColumns of 44_state_transforms.md R164, and the AES-256 cipher
of 00_scope.md R2 built from them. No meaning of a command calls anything of this file. -/

namespace Sys2Proof.Machine.Reference

/-- The S-box table, row `hi` and column `lo` holding `S(16·hi + lo)` (41_substitution.md R100). -/
def sboxTable : Vector (Vector Byte 16) 16 :=
  #v[#v[0x63, 0x7C, 0x77, 0x7B, 0xF2, 0x6B, 0x6F, 0xC5, 0x30, 0x01, 0x67, 0x2B, 0xFE, 0xD7, 0xAB, 0x76],
     #v[0xCA, 0x82, 0xC9, 0x7D, 0xFA, 0x59, 0x47, 0xF0, 0xAD, 0xD4, 0xA2, 0xAF, 0x9C, 0xA4, 0x72, 0xC0],
     #v[0xB7, 0xFD, 0x93, 0x26, 0x36, 0x3F, 0xF7, 0xCC, 0x34, 0xA5, 0xE5, 0xF1, 0x71, 0xD8, 0x31, 0x15],
     #v[0x04, 0xC7, 0x23, 0xC3, 0x18, 0x96, 0x05, 0x9A, 0x07, 0x12, 0x80, 0xE2, 0xEB, 0x27, 0xB2, 0x75],
     #v[0x09, 0x83, 0x2C, 0x1A, 0x1B, 0x6E, 0x5A, 0xA0, 0x52, 0x3B, 0xD6, 0xB3, 0x29, 0xE3, 0x2F, 0x84],
     #v[0x53, 0xD1, 0x00, 0xED, 0x20, 0xFC, 0xB1, 0x5B, 0x6A, 0xCB, 0xBE, 0x39, 0x4A, 0x4C, 0x58, 0xCF],
     #v[0xD0, 0xEF, 0xAA, 0xFB, 0x43, 0x4D, 0x33, 0x85, 0x45, 0xF9, 0x02, 0x7F, 0x50, 0x3C, 0x9F, 0xA8],
     #v[0x51, 0xA3, 0x40, 0x8F, 0x92, 0x9D, 0x38, 0xF5, 0xBC, 0xB6, 0xDA, 0x21, 0x10, 0xFF, 0xF3, 0xD2],
     #v[0xCD, 0x0C, 0x13, 0xEC, 0x5F, 0x97, 0x44, 0x17, 0xC4, 0xA7, 0x7E, 0x3D, 0x64, 0x5D, 0x19, 0x73],
     #v[0x60, 0x81, 0x4F, 0xDC, 0x22, 0x2A, 0x90, 0x88, 0x46, 0xEE, 0xB8, 0x14, 0xDE, 0x5E, 0x0B, 0xDB],
     #v[0xE0, 0x32, 0x3A, 0x0A, 0x49, 0x06, 0x24, 0x5C, 0xC2, 0xD3, 0xAC, 0x62, 0x91, 0x95, 0xE4, 0x79],
     #v[0xE7, 0xC8, 0x37, 0x6D, 0x8D, 0xD5, 0x4E, 0xA9, 0x6C, 0x56, 0xF4, 0xEA, 0x65, 0x7A, 0xAE, 0x08],
     #v[0xBA, 0x78, 0x25, 0x2E, 0x1C, 0xA6, 0xB4, 0xC6, 0xE8, 0xDD, 0x74, 0x1F, 0x4B, 0xBD, 0x8B, 0x8A],
     #v[0x70, 0x3E, 0xB5, 0x66, 0x48, 0x03, 0xF6, 0x0E, 0x61, 0x35, 0x57, 0xB9, 0x86, 0xC1, 0x1D, 0x9E],
     #v[0xE1, 0xF8, 0x98, 0x11, 0x69, 0xD9, 0x8E, 0x94, 0x9B, 0x1E, 0x87, 0xE9, 0xCE, 0x55, 0x28, 0xDF],
     #v[0x8C, 0xA1, 0x89, 0x0D, 0xBF, 0xE6, 0x42, 0x68, 0x41, 0x99, 0x2D, 0x0F, 0xB0, 0x54, 0xBB, 0x16]]

/-- `S(x)` (41_substitution.md R100). -/
def sbox (x : Byte) : Byte :=
  (sboxTable[x.toNat / 16]'(by have := x.isLt; omega))[x.toNat % 16]'(by omega)

/-- Multiplication by `x` in GF(2^8) modulo 0x11B: the product of degree 8 is reduced by one subtraction of the
polynomial (44_state_transforms.md R164, R167). -/
def gfDouble (b : Byte) : Byte :=
  BitVec.ofNat 8 (if 256 ≤ 2 * b.toNat then (2 * b.toNat) ^^^ 0x11B else 2 * b.toNat)

/-- The sum of `a · x^i` over the `n` low bits `i` set in `b`. -/
def gfMulBits : Nat → Byte → Byte → Byte
  | 0, _, _ => 0
  | n + 1, a, b => (if b.getLsbD 0 then a else 0) ^^^ gfMulBits n (gfDouble a) (b >>> 1)

/-- Multiplication in GF(2^8) modulo 0x11B (44_state_transforms.md R164). -/
def gfMul (a b : Byte) : Byte := gfMulBits 8 a b

/-- The affine map of 41_substitution.md R104. -/
def affine (b : Byte) : Byte :=
  b ^^^ b.rotateLeft 1 ^^^ b.rotateLeft 2 ^^^ b.rotateLeft 3 ^^^ b.rotateLeft 4 ^^^ 0x63

/-- SubWord by the S-box table (42_word_primitives.md R121). -/
def subWord (w : Word) : Word := Vector.ofFn fun k => sbox w[k]

/-- `T_j` of 43_key_schedule.md R145. -/
def scheduleTransform (j : Nat) (x : Word) : Word :=
  if j % 8 = 0 then xorRcon j (subWord (rotWord x))
  else if j % 8 = 4 then subWord x
  else x

/-- `w_j` computed with `fuel > j` (43_key_schedule.md R145). -/
def scheduleWordFuel (key : KeyBuffer) : Nat → Nat → Word
  | 0, _ => Vector.replicate 4 0
  | fuel + 1, j =>
    if h : j < 8 then keyWord key ⟨j, h⟩
    else
      xorBytes (scheduleWordFuel key fuel (j - 8))
        (scheduleTransform j (scheduleWordFuel key fuel (j - 1)))

/-- The schedule word `w_j`: the key words for `j < 8`, then `w_j = w_{j-8} ^ T_j(w_{j-1})`
(43_key_schedule.md R145). -/
def scheduleWord (key : KeyBuffer) (j : Nat) : Word := scheduleWordFuel key (j + 1) j

/-- Round key `r = w_{4r} ++ w_{4r+1} ++ w_{4r+2} ++ w_{4r+3}` (43_key_schedule.md R145). -/
def roundKey (key : KeyBuffer) (r : Nat) : Block :=
  Vector.ofFn fun k : Fin 16 => (scheduleWord key (4 * r + k.val / 4))[k.val % 4]'(by omega)

/-- SubBytes by the S-box table (44_state_transforms.md R160). -/
def subBytes (s : Block) : Block := Vector.ofFn fun k => sbox s[k]

/-- The fixed permutation `src` of 44_state_transforms.md R161. -/
def shiftSource : Vector (Fin 16) 16 := #v[0, 5, 10, 15, 4, 9, 14, 3, 8, 13, 2, 7, 12, 1, 6, 11]

/-- ShiftRows: new byte `k` takes old byte `src[k]` (44_state_transforms.md R161). -/
def shiftRows (s : Block) : Block := Vector.ofFn fun k => s[shiftSource[k]]

/-- MixColumns as the matrix product of 44_state_transforms.md R164: new `c_j = 2·c_j ^ 3·c_{j+1} ^ c_{j+2} ^ c_{j+3}`,
indices modulo 4. -/
def mixColumns (s : Block) : Block :=
  ofCells fun j c =>
    gfMul 2 (cell s j c) ^^^ gfMul 3 (cell s (j + 1) c) ^^^ cell s (j + 2) c ^^^ cell s (j + 3) c

/-- The state after rounds 1 to `r`, each with column mixing, from the state after round 0. -/
def mixedRounds (key : KeyBuffer) (start : Block) : Nat → Block
  | 0 => start
  | r + 1 => xorBytes (mixColumns (shiftRows (subBytes (mixedRounds key start r)))) (roundKey key (r + 1))

/-- The AES-256 forward cipher: round 0, 13 rounds with MixColumns, one final round without (00_scope.md R2, R9,
45_orchestrator.md R194). -/
def aes256 (key : KeyBuffer) (block : Block) : Block :=
  xorBytes (shiftRows (subBytes (mixedRounds key (xorBytes block (roundKey key 0)) 13))) (roundKey key 14)

end Sys2Proof.Machine.Reference
end

