-- ==== Sys2Proof/Safety.lean ====
section
/-! DEFINITION. What the claims mean by a safe state, by an ended run, by the control part of a state and by a sequence
of completions. -/

namespace Sys2Proof.Machine

/-- The invariant of the driver's counter: values 61 to 255 of `ITER` are never produced (10_state.md R27). -/
abbrev State.Inv (s : State) : Prop := s.iter.toNat ≤ 60

/-- The run of a host program has ended: its last bus access has been performed and nothing is pending
(70_reset_and_hazards.md R263). Turns of the engine and resets still to come are no bus accesses. -/
abbrev State.ended (s : State) : Prop := (∀ e ∈ s.inputs, e.isAccess = false) ∧ s.pend = none

/-- The part of a state the engine's control depends on: everything but `KEY`, `STATE`, `WORD` and the bytes the host
has read (45_orchestrator.md R199). -/
structure Control where
  widx : Byte
  iter : Byte
  sboxIn : Byte
  errIll : Bool
  errBusy : Bool
  errSeq : Bool
  pend : Option Instr
  inputs : List Event
  deriving DecidableEq, Repr

/-- The control part of a state. -/
def State.control (s : State) : Control where
  widx := s.widx
  iter := s.iter
  sboxIn := s.sboxIn
  errIll := s.errIll
  errBusy := s.errBusy
  errSeq := s.errSeq
  pend := s.pend
  inputs := s.inputs

/-- The completions of a list of commands, one after the other (70_reset_and_hazards.md R260). -/
def runCommands : List Instr → State → Host.Outcome State Fault Refusal
  | [], s => .next s
  | i :: rest, s =>
    match exec i s with
    | .next t => runCommands rest t
    | .fault r => .fault r
    | .refused r => .refused r

/-- The addresses of the register window a command may write, `STATUS` apart: the writes column of 30_encoding.md R82
on the register map of 10_state.md R20. -/
def writesAddr (i : Instr) (a : Addr) : Bool :=
  match i with
  | .nop => false
  | .rotword => 0x34 ≤ a.toNat && a.toNat ≤ 0x37
  | .subword => 0x34 ≤ a.toNat && a.toNat ≤ 0x37
  | .xorrcon => a.toNat == 0x34
  | .keystep => a.toNat ≤ 0x1F || a.toNat == 0x32
  | .subbytes => 0x20 ≤ a.toNat && a.toNat ≤ 0x2F
  | .shiftrows => 0x20 ≤ a.toNat && a.toNat ≤ 0x2F
  | .mixcolumns => 0x20 ≤ a.toNat && a.toNat ≤ 0x2F
  | .arkLo => 0x20 ≤ a.toNat && a.toNat ≤ 0x2F
  | .arkHi => 0x20 ≤ a.toNat && a.toNat ≤ 0x2F
  | .encInit => (0x20 ≤ a.toNat && a.toNat ≤ 0x2F) || a.toNat == 0x33
  | .encStep => a.toNat ≤ 0x2F || a.toNat == 0x33
  | .encrypt => a.toNat ≤ 0x2F || a.toNat == 0x33

end Sys2Proof.Machine
end

