-- ==== Sys2Proof/WellFormed.lean ====
section
/-! DEFINITION. Well-formedness of commands and of command bytes. -/

namespace Sys2Proof

/-- A command byte is well formed when it stands in the opcode map: 0x00 to 0x0C.
The 243 bytes 0x0D to 0xFF are illegal (30_encoding.md R81, R87). -/
def commandByteWellFormed (v : Byte) : Bool := v.toNat ≤ 0x0C

/-- A command carries no register field, immediate, mode bit or length (30_encoding.md R80, R88),
so each constructor is well formed as it stands. -/
def Instr.wellFormed : Instr → Bool
  | .nop => true
  | .rotword => true
  | .subword => true
  | .xorrcon => true
  | .keystep => true
  | .subbytes => true
  | .shiftrows => true
  | .mixcolumns => true
  | .arkLo => true
  | .arkHi => true
  | .encInit => true
  | .encStep => true
  | .encrypt => true

end Sys2Proof
end

