-- ==== Sys2Proof/Certificates/Slice0/Obligations.lean ====
section
/-! DEFINITION. The statements for the provers. A step on `{ s with inputs := e :: rest }` is the step on event `e`;
`{ s with … }` names everything a step changes, so each such equation is also the frame. -/

open Sys2Proof Sys2Proof.Machine

/-! ## Encoding -/

/-- 30_encoding.md R81: the thirteen legal command bytes, written out bit by bit, are their commands. -/
def Obligations.CommandBytesDecodeToTheirCommands : Prop :=
  decode [0b00000000#8] = .command .nop [] ∧ decode [0b00000001#8] = .command .rotword [] ∧
  decode [0b00000010#8] = .command .subword [] ∧ decode [0b00000011#8] = .command .xorrcon [] ∧
  decode [0b00000100#8] = .command .keystep [] ∧ decode [0b00000101#8] = .command .subbytes [] ∧
  decode [0b00000110#8] = .command .shiftrows [] ∧ decode [0b00000111#8] = .command .mixcolumns [] ∧
  decode [0b00001000#8] = .command .arkLo [] ∧ decode [0b00001001#8] = .command .arkHi [] ∧
  decode [0b00001010#8] = .command .encInit [] ∧ decode [0b00001011#8] = .command .encStep [] ∧
  decode [0b00001100#8] = .command .encrypt []

/-- 30_encoding.md R80, R88: decoding the encoding of a command gives it back and leaves the bytes after it. -/
def Obligations.DecodeInvertsEncode : Prop :=
  ∀ (i : Instr) (rest : List Byte), i.wellFormed = true → decode (encode i ++ rest) = .command i rest

/-- 30_encoding.md R80, R88: the decoder reads a command from no bytes but its encoding. -/
def Obligations.OnlyTheEncodingDecodesToACommand : Prop :=
  ∀ (bytes rest : List Byte) (i : Instr), decode bytes = .command i rest → bytes = encode i ++ rest

/-- 30_encoding.md R87: exactly the 243 bytes 0x0D to 0xFF are rejected, each by name. -/
def Obligations.ExactlyTheIllegalBytesAreRejected : Prop :=
  ∀ (v : Byte) (rest : List Byte),
    (0x0D ≤ v.toNat → decode (v :: rest) = .rejected (.illegalCommand v)) ∧
    (v.toNat < 0x0D → ∃ i, decode (v :: rest) = .command i rest)

/-! ## Host accesses -/

/-- 30_encoding.md R84: a legal byte written to an idle `CMD` is accepted and changes nothing else; any byte written to
`CMD` while a command is pending is dropped with `ERR_BUSY`, and that command alone stays pending. -/
def Obligations.LegalCommandIsAcceptedOnlyWhenIdle : Prop :=
  ∀ (s : State) (v : Byte) (rest : List Event),
    (∀ i, decode [v] = .command i [] → step { s with pend := none, inputs := .write 0x30 v :: rest } =
      .next { s with pend := some i, inputs := rest }) ∧
    ∀ j, step { s with pend := some j, inputs := .write 0x30 v :: rest } =
      .next { s with pend := some j, errBusy := true, inputs := rest }

/-- 30_encoding.md R83: an illegal byte written to an idle `CMD` sets `ERR_ILL` and nothing else. -/
def Obligations.IllegalCommandSetsErrIll : Prop :=
  ∀ (s : State) (v : Byte) (rest : List Event), 0x0D ≤ v.toNat →
    step { s with pend := none, inputs := .write 0x30 v :: rest } =
      .next { s with pend := none, errIll := true, inputs := rest }

/-- 20_memory.md R65: while busy, a write to any address but `STATUS` changes no register and sets `ERR_BUSY`; a write
to `STATUS` acts as always. -/
def Obligations.BusyWriteIsDroppedWithErrBusy : Prop :=
  ∀ (s : State) (i : Instr) (a : Addr) (v : Byte) (rest : List Event),
    (a ≠ 0x31 → step { s with pend := some i, inputs := .write a v :: rest } =
      .next { s with pend := some i, errBusy := true, inputs := rest }) ∧
    step { s with pend := some i, inputs := .write 0x31 v :: rest } =
      .next { s with
        pend := some i, inputs := rest, errIll := s.errIll && !v.getLsbD 1, errBusy := s.errBusy && !v.getLsbD 2,
        errSeq := s.errSeq && !v.getLsbD 3 }

/-- 10_state.md R35: a `STATUS` write clears the selected flags, busy or idle, and the byte read from `STATUS` is
`ERR_SEQ·8 + ERR_BUSY·4 + ERR_ILL·2 + BUSY`. -/
def Obligations.StatusWriteClearsAndStatusReadShowsFlags : Prop :=
  (∀ (s : State) (v : Byte) (rest : List Event),
    step { s with inputs := .write 0x31 v :: rest } =
      .next { s with
        inputs := rest, errIll := s.errIll && !v.getLsbD 1, errBusy := s.errBusy && !v.getLsbD 2,
        errSeq := s.errSeq && !v.getLsbD 3 }) ∧
  ∀ (s : State) (rest : List Event), ∃ v : Byte,
    step { s with inputs := .read 0x31 :: rest } = .next { s with inputs := rest, reads := s.reads ++ [v] } ∧
    v.toNat = s.errSeq.toNat * 8 + s.errBusy.toNat * 4 + s.errIll.toNat * 2 + (if s.pend = none then 0 else 1)

/-- 20_memory.md R63, R66: the idle write table, row by row. -/
def Obligations.IdleWriteReachesItsRegister : Prop :=
  ∀ (s : State) (v : Byte) (rest : List Event), s.pend = none →
    (∀ k : Fin 32, step { s with inputs := .write (BitVec.ofNat 6 k.val) v :: rest } =
      .next { s with inputs := rest, key := s.key.set k.val v }) ∧
    (∀ k : Fin 16, step { s with inputs := .write (BitVec.ofNat 6 (0x20 + k.val)) v :: rest } =
      .next { s with inputs := rest, state := s.state.set k.val v }) ∧
    (∀ i, decode [v] = .command i [] → step { s with inputs := .write 0x30 v :: rest } =
      .next { s with inputs := rest, pend := some i }) ∧
    (0x0D ≤ v.toNat → step { s with inputs := .write 0x30 v :: rest } =
      .next { s with inputs := rest, errIll := true }) ∧
    step { s with inputs := .write 0x31 v :: rest } =
      .next { s with
        inputs := rest, errIll := s.errIll && !v.getLsbD 1, errBusy := s.errBusy && !v.getLsbD 2,
        errSeq := s.errSeq && !v.getLsbD 3 } ∧
    step { s with inputs := .write 0x32 v :: rest } = .next { s with inputs := rest, widx := v } ∧
    (∀ k : Fin 4, step { s with inputs := .write (BitVec.ofNat 6 (0x34 + k.val)) v :: rest } =
      .next { s with inputs := rest, word := s.word.set k.val v }) ∧
    step { s with inputs := .write 0x38 v :: rest } = .next { s with inputs := rest, sboxIn := v } ∧
    ∀ a : Addr, a = 0x33 ∨ 0x39 ≤ a.toNat →
      step { s with inputs := .write a v :: rest } = .next { s with inputs := rest }

/-- 20_memory.md R62: the idle read table, row by row; a read changes no state of the engine. -/
def Obligations.IdleReadReturnsItsRegister : Prop :=
  ∀ (s : State) (rest : List Event), s.pend = none →
    (∀ k : Fin 32, step { s with inputs := .read (BitVec.ofNat 6 k.val) :: rest } =
      .next { s with inputs := rest, reads := s.reads ++ [s.key[k]] }) ∧
    (∀ k : Fin 16, step { s with inputs := .read (BitVec.ofNat 6 (0x20 + k.val)) :: rest } =
      .next { s with inputs := rest, reads := s.reads ++ [s.state[k]] }) ∧
    step { s with inputs := .read 0x30 :: rest } = .next { s with inputs := rest, reads := s.reads ++ [0x00] } ∧
    step { s with inputs := .read 0x31 :: rest } =
      .next { s with
        inputs := rest,
        reads := s.reads ++
          [BitVec.ofNat 8 (s.errSeq.toNat * 8 + s.errBusy.toNat * 4 + s.errIll.toNat * 2)] } ∧
    step { s with inputs := .read 0x32 :: rest } = .next { s with inputs := rest, reads := s.reads ++ [s.widx] } ∧
    step { s with inputs := .read 0x33 :: rest } = .next { s with inputs := rest, reads := s.reads ++ [s.iter] } ∧
    (∀ k : Fin 4, step { s with inputs := .read (BitVec.ofNat 6 (0x34 + k.val)) :: rest } =
      .next { s with inputs := rest, reads := s.reads ++ [s.word[k]] }) ∧
    step { s with inputs := .read 0x38 :: rest } = .next { s with inputs := rest, reads := s.reads ++ [s.sboxIn] } ∧
    step { s with inputs := .read 0x39 :: rest } =
      .next { s with inputs := rest, reads := s.reads ++ [Reference.sbox s.sboxIn] } ∧
    step { s with inputs := .read 0x3A :: rest } =
      .next { s with inputs := rest, reads := s.reads ++ [s.sboxIn ^^^ Reference.sbox s.sboxIn] } ∧
    ∀ a : Addr, 0x3B ≤ a.toNat →
      step { s with inputs := .read a :: rest } = .next { s with inputs := rest, reads := s.reads ++ [0x00] }

/-- 20_memory.md R64: while busy a read returns the `STATUS` byte at 0x31 and 0x00 at every other address. -/
def Obligations.BusyReadShowsOnlyStatus : Prop :=
  ∀ (s : State) (i : Instr) (rest : List Event),
    (∀ a : Addr, a ≠ 0x31 → step { s with pend := some i, inputs := .read a :: rest } =
      .next { s with pend := some i, inputs := rest, reads := s.reads ++ [0x00] }) ∧
    step { s with pend := some i, inputs := .read 0x31 :: rest } =
      .next { s with
        pend := some i, inputs := rest,
        reads := s.reads ++
          [BitVec.ofNat 8 (s.errSeq.toNat * 8 + s.errBusy.toNat * 4 + s.errIll.toNat * 2 + 1)] }

/-- 20_memory.md R63, R68 and 70_reset_and_hazards.md R259: an idle write is visible at its own address and leaves every
other address of the window alone (a `SBOX_IN` write also moves the two read ports computed from it). -/
def Obligations.IdleWriteChangesOnlyItsByte : Prop :=
  ∀ (s t : State) (a : Addr) (v : Byte) (rest : List Event), s.pend = none → a ≠ 0x30 → a ≠ 0x31 →
    step { s with inputs := .write a v :: rest } = .next t →
      (a.toNat < 0x39 → a ≠ 0x33 → t.window a = v) ∧
      ∀ b : Addr, b ≠ a → ¬(a = 0x38 ∧ (b = 0x39 ∨ b = 0x3A)) → t.window b = s.window b

/-- 41_substitution.md R103: the read port. The values read follow the last `SBOX_IN` written, with no command; while
busy both ports read 0x00 and a write to `SBOX_IN` is refused. -/
def Obligations.SboxPortLooksUpTheLastByteWritten : Prop :=
  ∀ (s : State) (x : Byte) (rest : List Event),
    (s.pend = none →
      Host.Core.run Sys2Proof.core 3
          { s with inputs := .write 0x38 x :: .read 0x39 :: .read 0x3A :: rest } =
        .next { s with
          inputs := rest, sboxIn := x,
          reads := s.reads ++ [Reference.sbox x, x ^^^ Reference.sbox x] }) ∧
    ∀ i, s.pend = some i →
      Host.Core.run Sys2Proof.core 3
          { s with inputs := .write 0x38 x :: .read 0x39 :: .read 0x3A :: rest } =
        .next { s with inputs := rest, errBusy := true, reads := s.reads ++ [0x00, 0x00] }

/-- 20_memory.md R60: the platform's decoder gives the engine the offset `a = host_address - WINDOW_BASE`. (That a host
address outside those 64 has no offset is the model's own clause, read from the spec by inference: DEDUCED, log
entry 7.) -/
def Obligations.WindowOffsetIsRelativeToItsBase : Prop :=
  (∀ a : Addr, windowOffset (Config.windowBase + a.toNat) = some a) ∧
  ∀ h : Nat, h < Config.windowBase ∨ Config.windowBase + 64 ≤ h → windowOffset h = none

/-! ## Reset -/

/-- 70_reset_and_hazards.md R250: reset at any point, idle or busy, sets every field of the engine to its reset value
and discards a pending command. (That the host's own events and the bytes it has read stand is the model's choice, log
entry 6.) -/
def Obligations.ResetSetsEveryField : Prop :=
  ∀ (s : State) (rest : List Event), ∃ t : State,
    step { s with inputs := .reset :: rest } = .next t ∧
    (∀ k : Fin 32, t.key[k] = 0x00) ∧ (∀ k : Fin 16, t.state[k] = 0x00) ∧ (∀ k : Fin 4, t.word[k] = 0x00) ∧
    t.widx = 0x00 ∧ t.iter = 0x00 ∧ t.sboxIn = 0x00 ∧
    t.errIll = false ∧ t.errBusy = false ∧ t.errSeq = false ∧ t.pend = none ∧
    t.inputs = rest ∧ t.reads = s.reads

/-- 10_state.md R20, R45: the state after reset; every address of the window reads 0x00 but the two S-box read ports,
which read 0x63. -/
def Obligations.ResetStateReadsZeroAtEveryAddress : Prop :=
  (State.reset.pend = none ∧ State.reset.errIll = false ∧ State.reset.errBusy = false ∧
    State.reset.errSeq = false) ∧
  ∀ a : Addr, State.reset.memRead a = if a = 0x39 ∨ a = 0x3A then 0x63 else 0x00

/-! ## The engine's step -/

/-- 30_encoding.md R85: an engine step is the completion of the pending command, and an idle engine's turn changes
nothing but the event consumed. (The engine's turn once no event is left is the model's choice, log entry 2.) A table
word that decodes to a command, placed by `withFetchWord`, runs on the next step as exactly that command. (This clause is
the model's choice: the spec has no fetch, and `withFetchWord` makes the command pending with the engine's turn next, log
entry 3.) -/
def Obligations.EngineStepRunsTheDecodedCommand : Prop :=
  (∀ (s : State) (i : Instr) (rest : List Event),
    step { s with pend := some i, inputs := .engine :: rest } = exec i { s with pend := some i, inputs := rest } ∧
    step { s with pend := some i, inputs := [] } = exec i { s with pend := some i, inputs := [] } ∧
    step { s with pend := none, inputs := .engine :: rest } = .next { s with pend := none, inputs := rest } ∧
    step { s with pend := none, inputs := [] } = .next { s with pend := none, inputs := [] }) ∧
  ∀ (s : State) (nbits w : Nat) (i : Instr), decodeTableWord nbits w = some i → i.wellFormed = true →
    step (s.withFetchWord nbits w) = exec i { s with pend := some i }

/-- 30_encoding.md R82, R85, R86: every command completes from every state, clears `BUSY`, and leaves `SBOX_IN`, the
host's events and reads, and the error flags alone, but for ENC_STEP's `ERR_SEQ`. -/
def Obligations.EveryCommandCompletesAndClearsBusy : Prop :=
  ∀ (i : Instr) (s : State), ∃ t : State, exec i s = .next t ∧
    t.pend = none ∧ t.sboxIn = s.sboxIn ∧ t.inputs = s.inputs ∧ t.reads = s.reads ∧
    t.errIll = s.errIll ∧ t.errBusy = s.errBusy ∧ (i ≠ .encStep → t.errSeq = s.errSeq)

/-- 30_encoding.md R82, the writes column: a completion leaves every address of the window outside its operands alone
(`STATUS` apart, whose `BUSY` bit clears). -/
def Obligations.CommandsWriteOnlyTheirOperands : Prop :=
  ∀ (i : Instr) (s t : State) (a : Addr), exec i s = .next t → a ≠ 0x31 → writesAddr i a = false →
    t.window a = s.window a

/-! ## NOP and the word primitives -/

/-- 45_orchestrator.md R197: completion only clears `BUSY`. Accepted and completed, NOP changes nothing; a write to
another address than `STATUS` in between sets `ERR_BUSY`. -/
def Obligations.NopOnlyClearsBusy : Prop :=
  decode [0x00#8] = .command .nop [] ∧ (∀ s : State, exec .nop s = .next { s with pend := none }) ∧
  ∀ (s : State) (rest : List Event),
    step { s with pend := none, inputs := .write 0x30 0x00 :: rest } =
      .next { s with pend := some .nop, inputs := rest } ∧
    step { s with pend := some .nop, inputs := .engine :: rest } = .next { s with pend := none, inputs := rest } ∧
    ∀ (a : Addr) (v : Byte), a ≠ 0x31 → step { s with pend := some .nop, inputs := .write a v :: rest } =
      .next { s with pend := some .nop, errBusy := true, inputs := rest }

/-- 42_word_primitives.md R120, R125. -/
def Obligations.RotwordRotatesLeftByOneByte : Prop :=
  decode [0x01#8] = .command .rotword [] ∧
  ∀ s : State, exec .rotword s =
    .next { s with word := #v[s.word[1], s.word[2], s.word[3], s.word[0]], pend := none }

/-- 42_word_primitives.md R121, R126. -/
def Obligations.SubwordSubstitutesEachByte : Prop :=
  decode [0x02#8] = .command .subword [] ∧
  ∀ s : State, exec .subword s =
    .next { s with
      word := #v[s.word[0] ^^^ delta s.word[0], s.word[1] ^^^ delta s.word[1], s.word[2] ^^^ delta s.word[2],
        s.word[3] ^^^ delta s.word[3]]
      pend := none }

/-- 42_word_primitives.md R122: the table of round constants, for every index. -/
def Obligations.RconFollowsItsTable : Prop :=
  ∀ j : Nat, (j / 8 = 0 → rcon j = 0x00) ∧ (9 ≤ j / 8 → rcon j = 0x00) ∧
    (j / 8 = 1 → rcon j = 0x01) ∧ (j / 8 = 2 → rcon j = 0x02) ∧ (j / 8 = 3 → rcon j = 0x04) ∧
    (j / 8 = 4 → rcon j = 0x08) ∧ (j / 8 = 5 → rcon j = 0x10) ∧ (j / 8 = 6 → rcon j = 0x20) ∧
    (j / 8 = 7 → rcon j = 0x40) ∧ (j / 8 = 8 → rcon j = 0x80)

/-- 42_word_primitives.md R122, R123, R127: only the first byte changes, by the round constant of `WIDX`, which is
`2^(k-1)` for `k = WIDX div 8` in 1..8 and 0 for every other `k`. -/
def Obligations.XorrconChangesOnlyTheFirstByte : Prop :=
  decode [0x03#8] = .command .xorrcon [] ∧
  ∀ s : State, exec .xorrcon s =
      .next { s with
        word := #v[s.word[0] ^^^ rcon s.widx.toNat, s.word[1], s.word[2], s.word[3]], pend := none } ∧
    (1 ≤ s.widx.toNat / 8 → s.widx.toNat / 8 ≤ 8 →
      (rcon s.widx.toNat).toNat = 2 ^ (s.widx.toNat / 8 - 1)) ∧
    (s.widx.toNat < 8 ∨ 72 ≤ s.widx.toNat → exec .xorrcon s = .next { s with pend := none })

/-- 42_word_primitives.md R128: ROTWORD; SUBWORD; XORRCON on the word in slot 7 recomputes what KEYSTEP at the same
index XORs into slot 0. -/
def Obligations.WordCommandsRecomputeAGeneratorStep : Prop :=
  ∀ s : State, s.word = keyWord s.key 7 → 8 ≤ s.widx.toNat → s.widx.toNat % 8 = 0 →
    ∃ t u : State, runCommands [.rotword, .subword, .xorrcon] s = .next t ∧ exec .keystep s = .next u ∧
      keyWord u.key 0 = xorBytes (keyWord s.key 0) t.word ∧
      t = { s with word := t.word, pend := none }

/-! ## The substitution unit -/

/-- 41_substitution.md R101: the stored table is `DELTA(x) = x ^ S(x)` for the AES S-box of R100. -/
def Obligations.DeltaTableIsXorOfTheSbox : Prop :=
  ∀ x : Byte, delta x = x ^^^ Reference.sbox x ∧ x ^^^ delta x = Reference.sbox x

/-- 41_substitution.md R104: the S-box is the inverse in GF(2^8), with the inverse of 0 taken as 0, then the affine
map. -/
def Obligations.SboxIsInverseThenAffineMap : Prop :=
  ∀ x : Byte, ∃ b : Byte, (x = 0 → b = 0) ∧ (x ≠ 0 → Reference.gfMul x b = 1) ∧
    Reference.sbox x = Reference.affine b

/-- 41_substitution.md R105. -/
def Obligations.SboxIsAPermutationWithoutFixedPoints : Prop :=
  (∀ x y : Byte, substitute x = substitute y → x = y) ∧ (∀ y : Byte, ∃ x : Byte, substitute x = y) ∧
  (∀ x : Byte, substitute x ≠ x ∧ substitute x ≠ x ^^^ 0xFF ∧ delta x ≠ 0x00) ∧
  (∀ x : Byte, delta x = 0x01 ↔ x = 0xC7 ∨ x = 0xE0)

/-! ## The key schedule -/

/-- 43_key_schedule.md R141, R142, R147: KEYSTEP at `j = WIDX`. With `j < 8` no byte of `KEY` changes; otherwise the
word of slot `j mod 8` alone changes, by the transform of the word of slot `(j - 1) mod 8`. `WIDX` advances modulo
256. -/
def Obligations.KeystepRunsOneGeneratorStep : Prop :=
  decode [0x04#8] = .command .keystep [] ∧
  ∀ s : State, ∃ key : KeyBuffer,
    exec .keystep s =
      .next { s with key := key, widx := BitVec.ofNat 8 ((s.widx.toNat + 1) % 256), pend := none } ∧
    (s.widx.toNat < 8 → key = s.key) ∧
    (8 ≤ s.widx.toNat →
      (∀ w : Fin 8, w.val ≠ s.widx.toNat % 8 → keyWord key w = keyWord s.key w) ∧
      ∀ p q : Fin 8, p.val = (s.widx.toNat - 1) % 8 → q.val = s.widx.toNat % 8 →
        (q.val = 0 → keyWord key q = xorBytes (keyWord s.key q)
          #v[Reference.sbox (keyWord s.key p)[1] ^^^ rcon s.widx.toNat, Reference.sbox (keyWord s.key p)[2],
            Reference.sbox (keyWord s.key p)[3], Reference.sbox (keyWord s.key p)[0]]) ∧
        (q.val = 4 → keyWord key q = xorBytes (keyWord s.key q)
          #v[Reference.sbox (keyWord s.key p)[0], Reference.sbox (keyWord s.key p)[1],
            Reference.sbox (keyWord s.key p)[2], Reference.sbox (keyWord s.key p)[3]]) ∧
        (q.val ≠ 0 → q.val ≠ 4 → keyWord key q = xorBytes (keyWord s.key q) (keyWord s.key p)))

/-- 43_key_schedule.md R144: KEYSTEPs with consecutive indices from a start in 0..8 up to `n`, from a `KEY` that holds
the original key, leave in `KEY` the last eight schedule words `w_{n-7}..w_n`, word `m` in slot `m mod 8`. -/
def Obligations.KeystepsProduceTheKeySchedule : Prop :=
  ∀ (s : State) (n : Nat), s.widx.toNat ≤ 8 → 8 ≤ n → n ≤ 255 →
    ∃ t : State, runCommands (List.replicate (n + 1 - s.widx.toNat) .keystep) s = .next t ∧
      ∀ m : Nat, n ≤ m + 7 → m ≤ n → keyWord t.key (slot m) = Reference.scheduleWord s.key m

/-! ## The state transforms -/

/-- 44_state_transforms.md R162. -/
def Obligations.XtimeDoublesInTheField : Prop :=
  ∀ b : Byte,
    (b.getLsbD 7 = true → (xtime b).toNat = (b.toNat * 2 % 256) ^^^ 0x1B) ∧
    (b.getLsbD 7 = false → (xtime b).toNat = b.toNat * 2) ∧
    xtime b = Reference.gfMul 2 b

/-- 44_state_transforms.md R160, R170. -/
def Obligations.SubbytesSubstitutesEachByte : Prop :=
  decode [0x05#8] = .command .subbytes [] ∧
  ∀ s : State, ∃ b : Block, exec .subbytes s = .next { s with state := b, pend := none } ∧
    ∀ k : Fin 16, b[k] = s.state[k] ^^^ delta s.state[k]

/-- 44_state_transforms.md R161, R171: the permutation table, and the row rotation it comes from. -/
def Obligations.ShiftrowsPermutesBytes : Prop :=
  decode [0x06#8] = .command .shiftrows [] ∧
  ∀ s : State, ∃ b : Block, exec .shiftrows s = .next { s with state := b, pend := none } ∧
    (∀ k : Fin 16, b[k] = s.state[Reference.shiftSource[k]]) ∧
    ∀ r c : Fin 4, cell b r c = cell s.state r ⟨(c.val + r.val) % 4, by omega⟩

/-- 44_state_transforms.md R163, R172: each column from its old bytes. -/
def Obligations.MixcolumnsMixesEachColumn : Prop :=
  decode [0x07#8] = .command .mixcolumns [] ∧
  ∀ s : State, ∃ b : Block, exec .mixcolumns s = .next { s with state := b, pend := none } ∧
    ∀ c j : Fin 4,
      cell b j c = cell s.state j c ^^^ xtime (cell s.state j c ^^^ cell s.state ⟨(j.val + 1) % 4, by omega⟩ c) ^^^
        (cell s.state 0 c ^^^ cell s.state 1 c ^^^ cell s.state 2 c ^^^ cell s.state 3 c)

/-- 44_state_transforms.md R164: MIXCOLUMNS is the matrix product over GF(2^8). -/
def Obligations.MixcolumnsIsTheMatrixProduct : Prop :=
  ∀ s : State, ∃ b : Block, exec .mixcolumns s = .next { s with state := b, pend := none } ∧
    ∀ c : Fin 4,
      cell b 0 c = Reference.gfMul 2 (cell s.state 0 c) ^^^ Reference.gfMul 3 (cell s.state 1 c) ^^^
        cell s.state 2 c ^^^ cell s.state 3 c ∧
      cell b 1 c = cell s.state 0 c ^^^ Reference.gfMul 2 (cell s.state 1 c) ^^^
        Reference.gfMul 3 (cell s.state 2 c) ^^^ cell s.state 3 c ∧
      cell b 2 c = cell s.state 0 c ^^^ cell s.state 1 c ^^^ Reference.gfMul 2 (cell s.state 2 c) ^^^
        Reference.gfMul 3 (cell s.state 3 c) ∧
      cell b 3 c = Reference.gfMul 3 (cell s.state 0 c) ^^^ cell s.state 1 c ^^^ cell s.state 2 c ^^^
        Reference.gfMul 2 (cell s.state 3 c)

/-- 44_state_transforms.md R165, R173. -/
def Obligations.ArkLoXorsTheLowHalf : Prop :=
  decode [0x08#8] = .command .arkLo [] ∧
  ∀ s : State, ∃ b : Block, exec .arkLo s = .next { s with state := b, pend := none } ∧
    ∀ k : Fin 16, b[k] = s.state[k] ^^^ s.key[k.val]

/-- 44_state_transforms.md R165, R174. -/
def Obligations.ArkHiXorsTheHighHalf : Prop :=
  decode [0x09#8] = .command .arkHi [] ∧
  ∀ s : State, ∃ b : Block, exec .arkHi s = .next { s with state := b, pend := none } ∧
    ∀ k : Fin 16, b[k] = s.state[k] ^^^ s.key[16 + k.val]

/-- 44_state_transforms.md R166: SUBBYTES and SHIFTROWS commute. -/
def Obligations.SubbytesAndShiftrowsCommute : Prop :=
  ∀ s : State, runCommands [.subbytes, .shiftrows] s = runCommands [.shiftrows, .subbytes] s

/-- 42_word_primitives.md R125, R127 and 44_state_transforms.md R171, R173, R174, corner cases: four rotations restore,
and two equal XORs cancel. -/
def Obligations.RotationsRestoreAndXorsCancel : Prop :=
  ∀ (s : State) (l : List Instr),
    l = [.rotword, .rotword, .rotword, .rotword] ∨ l = [.shiftrows, .shiftrows, .shiftrows, .shiftrows] ∨
      l = [.xorrcon, .xorrcon] ∨ l = [.arkLo, .arkLo] ∨ l = [.arkHi, .arkHi] →
    runCommands l s = .next { s with pend := none }

/-! ## The encryption driver -/

/-- 45_orchestrator.md R191. -/
def Obligations.EncInitAddsRoundKeyZero : Prop :=
  decode [0x0A#8] = .command .encInit [] ∧
  ∀ s : State, ∃ b : Block, exec .encInit s = .next { s with state := b, iter := 1, pend := none } ∧
    ∀ k : Fin 16, b[k] = s.state[k] ^^^ s.key[k.val]

/-- 45_orchestrator.md R192: in range, the generator step at index `ITER + 4` first, the round of the iteration second,
`ITER` advanced; out of range, `ERR_SEQ` and nothing else. -/
def Obligations.EncStepRunsOneIteration : Prop :=
  decode [0x0B#8] = .command .encStep [] ∧
  ∀ s : State,
    (s.iter.toNat < 1 ∨ 59 < s.iter.toNat →
      exec .encStep s = .next { s with errSeq := true, pend := none }) ∧
    (1 ≤ s.iter.toNat → s.iter.toNat ≤ 59 → ∃ (key : KeyBuffer) (b : Block),
      exec .encStep s =
        .next { s with key := key, state := b, iter := BitVec.ofNat 8 (s.iter.toNat + 1), pend := none } ∧
      key = keyGen (s.iter.toNat + 4) s.key ∧
      (s.iter.toNat % 8 = 0 → s.iter.toNat ≠ 56 →
        b = addRoundKey (mixColumns (shiftRows (subBytes s.state))) key .lo) ∧
      (s.iter.toNat = 56 → b = addRoundKey (shiftRows (subBytes s.state)) key .lo) ∧
      ((s.iter.toNat + 4) % 8 = 0 → b = addRoundKey (mixColumns (shiftRows (subBytes s.state))) key .hi) ∧
      (s.iter.toNat % 4 ≠ 0 → b = s.state))

/-- 45_orchestrator.md R193: ENCRYPT is ENC_INIT and then 59 ENC_STEPs, none of which sets `ERR_SEQ`; it leaves
`ITER = 60` and `WORD`, `WIDX`, `SBOX_IN` and the flags alone. -/
def Obligations.EncryptIsInitAndFiftyNineSteps : Prop :=
  decode [0x0C#8] = .command .encrypt [] ∧
  ∀ s : State, ∃ t : State, exec .encrypt s = .next t ∧
    runCommands (.encInit :: List.replicate 59 .encStep) s = .next t ∧
    t = { s with key := t.key, state := t.state, iter := 60, pend := none }

/-- 45_orchestrator.md R194, R196: after ENC_INIT and `4r` ENC_STEPs, r = 1..14, the half `r mod 2` of `KEY` holds
round key `r`, and `STATE` has been through rounds 0 to `r` of the cipher. -/
def Obligations.EveryRoundUsesItsRoundKey : Prop :=
  ∀ (s : State) (r : Nat), 1 ≤ r → r ≤ 14 → ∃ t : State,
    runCommands (.encInit :: List.replicate (4 * r) .encStep) s = .next t ∧
    t.iter = BitVec.ofNat 8 (4 * r + 1) ∧
    keyHalf t.key (if r % 2 = 0 then .lo else .hi) = Reference.roundKey s.key r ∧
    (r ≤ 13 → t.state =
      Reference.mixedRounds s.key (xorBytes s.state (Reference.roundKey s.key 0)) r) ∧
    (r = 14 → t.state = Reference.aes256 s.key s.state)

/-- 45_orchestrator.md R198 and 00_scope.md R2: ENCRYPT, and ENC_INIT followed by 59 ENC_STEPs, leave the AES-256
ciphertext in `STATE`, the words `w_56..w_63` in `KEY`, and `ITER = 60`, for every key and every block. -/
def Obligations.EncryptComputesAes256 : Prop :=
  ∀ s : State, ∃ t : State, exec .encrypt s = .next t ∧
    runCommands (.encInit :: List.replicate 59 .encStep) s = .next t ∧
    t.state = Reference.aes256 s.key s.state ∧
    (∀ w : Fin 8, keyWord t.key w = Reference.scheduleWord s.key (56 + w.val)) ∧
    t.iter = 60

/-- 44_state_transforms.md R175 and 43_key_schedule.md R147: an ENC_STEP of a round iteration leaves the same `KEY` and
`STATE` as KEYSTEP at `WIDX = ITER + 4` and then the transforms as single commands. -/
def Obligations.EncStepEqualsItsPrimitives : Prop :=
  ∀ s : State, 1 ≤ s.iter.toNat → s.iter.toNat ≤ 59 → s.widx.toNat = s.iter.toNat + 4 →
    ∃ t u : State, exec .encStep s = .next t ∧
      runCommands
          (.keystep ::
            (if s.iter.toNat = 56 then [.subbytes, .shiftrows, .arkLo]
            else if s.iter.toNat % 8 = 0 then [.subbytes, .shiftrows, .mixcolumns, .arkLo]
            else if s.iter.toNat % 8 = 4 then [.subbytes, .shiftrows, .mixcolumns, .arkHi]
            else [])) s = .next u ∧
      t.key = u.key ∧ t.state = u.state

/-! ## The whole machine -/

/-- 60_exceptions.md R220: no step stops, whatever the state. -/
def Obligations.EveryStepGoesOn : Prop := ∀ s : State, ∃ t : State, step s = .next t

/-- 10_state.md R27: `ITER` at most 60 is kept by every step. -/
def Obligations.StepKeepsIterAtMostSixty : Prop :=
  ∀ s t : State, s.Inv → step s = .next t → t.Inv

/-- 10_state.md R27, R45: the reset state meets the invariant of `ITER`. -/
def Obligations.ResetMeetsTheIterInvariant : Prop := State.reset.Inv

/-- 10_state.md R27: `ITER` changes only by a driver command's completion or by reset, never by the host; when it does
it becomes 1 (ENC_INIT), the next iteration (ENC_STEP), 60 (ENCRYPT) or 0 (reset). -/
def Obligations.OnlyDriverAndResetChangeIter : Prop :=
  ∀ s t : State, step s = .next t → t.iter ≠ s.iter →
    (t.iter = 1 ∧ s.pend = some .encInit) ∨ (t.iter = s.iter + 1 ∧ s.pend = some .encStep) ∨
      (t.iter = 60 ∧ s.pend = some .encrypt) ∨ (t.iter = 0 ∧ s.inputs.head? = some .reset)

/-- 10_state.md R28: `WIDX` changes only by KEYSTEP, by an idle host write to 0x32 or by reset. -/
def Obligations.OnlyKeystepHostAndResetChangeWidx : Prop :=
  ∀ s t : State, step s = .next t → t.widx ≠ s.widx →
    (t.widx = s.widx + 1 ∧ s.pend = some .keystep) ∨
      (s.pend = none ∧ s.inputs.head? = some (.write 0x32 t.widx)) ∨
      (t.widx = 0 ∧ s.inputs.head? = some .reset)

/-- 60_exceptions.md R222: a set flag stays set unless the step is a `STATUS` write with the flag's bit set, or
reset. -/
def Obligations.ErrorFlagsAreSticky : Prop :=
  ∀ (s t : State) (f : ErrFlag), step s = .next t → s.flag f = true →
    t.flag f = true ∨ s.inputs.head? = some .reset ∨
      ∃ v : Byte, s.inputs.head? = some (.write 0x31 v) ∧ v.getLsbD f.code = true

/-- 60_exceptions.md R221: the three error conditions, and no other condition, raise a flag. (That the engine takes its turn
once no event is left is the model's choice, log entry 2.) -/
def Obligations.FlagsRiseOnlyFromTheirCauses : Prop :=
  ∀ (s t : State) (f : ErrFlag), step s = .next t → s.flag f = false →
    (t.flag f = true ↔
      match f with
      | .ill => s.pend = none ∧ ∃ v : Byte, s.inputs.head? = some (.write 0x30 v) ∧ 0x0D ≤ v.toNat
      | .busy => s.pend ≠ none ∧ ∃ (a : Addr) (v : Byte), s.inputs.head? = some (.write a v) ∧ a ≠ 0x31
      | .seq => s.pend = some .encStep ∧ (s.iter.toNat < 1 ∨ 59 < s.iter.toNat) ∧
          (s.inputs = [] ∨ s.inputs.head? = some .engine))

/-- 60_exceptions.md R223: a single step raises at most one flag. -/
def Obligations.AStepRaisesAtMostOneFlag : Prop :=
  ∀ (s t : State) (f g : ErrFlag), step s = .next t → s.flag f = false → t.flag f = true →
    s.flag g = false → t.flag g = true → f = g

/-- 20_memory.md R71: as long as a command stays pending no step changes any of its operands. -/
def Obligations.OperandsStayFixedWhileBusy : Prop :=
  ∀ (s t : State) (i : Instr), step s = .next t → s.pend = some i → t.pend ≠ none →
    t.pend = some i ∧ t.key = s.key ∧ t.state = s.state ∧ t.word = s.word ∧ t.widx = s.widx ∧
      t.iter = s.iter ∧ t.sboxIn = s.sboxIn

/-- 10_state.md R30, R40: `BUSY` rises only by the acceptance of a command and falls only by its completion or by
reset. (That the engine takes its turn once no event is left is the model's choice, log entry 2.) -/
def Obligations.BusyRisesByAcceptanceAndFallsByCompletion : Prop :=
  ∀ s t : State, step s = .next t →
    (∀ i, s.pend = none → t.pend = some i →
      ∃ v : Byte, s.inputs.head? = some (.write 0x30 v) ∧ decode [v] = .command i []) ∧
    (∀ i, s.pend = some i → t.pend = none →
      s.inputs.head? = some .reset ∨
        ((s.inputs = [] ∨ s.inputs.head? = some .engine) ∧
          exec i { s with inputs := s.inputs.tail } = .next t))

/-- 45_orchestrator.md R199: two states that agree on the control part agree on it after a step, whatever `KEY`,
`STATE`, `WORD` and the bytes read so far hold. -/
def Obligations.ControlDoesNotDependOnSecrets : Prop :=
  ∀ s₁ s₂ t₁ t₂ : State, s₁.control = s₂.control → step s₁ = .next t₁ → step s₂ = .next t₂ →
    t₁.control = t₂.control

/-- 70_reset_and_hazards.md R262, R263: whatever is pending and whatever the host still does, the run ends: there is a
first state, reached in at most one step for each event and one more, in which the last bus access has been performed
and nothing is pending. After all those steps no event is left. (That the engine takes its turn once no event is left is
the model's choice, log entry 2.) -/
def Obligations.EveryRunEnds : Prop :=
  ∀ s : State,
    (∃ (k : Nat) (t : State), k ≤ s.inputs.length + 1 ∧ Host.Core.run Sys2Proof.core k s = .next t ∧ t.ended ∧
      ∀ (j : Nat) (u : State), j < k → Host.Core.run Sys2Proof.core j s = .next u → ¬ u.ended) ∧
    ∃ t : State, Host.Core.run Sys2Proof.core (s.inputs.length + 1) s = .next t ∧ t.inputs = [] ∧ t.ended

/-- 70_reset_and_hazards.md R263: an ended run stays ended, and but for a reset a step then changes nothing of the
engine, so the state in which the run ends is its end state whatever turns of the engine come after. (That the engine
takes its turn once no event is left is the model's choice, log entry 2.) -/
def Obligations.EndedRunStaysEnded : Prop :=
  ∀ s t : State, s.ended → step s = .next t →
    t.ended ∧ (s.inputs.head? ≠ some .reset → t = { s with inputs := s.inputs.tail })
end

