-- ==== Sys2Proof/Laws/Operands.lean ====
section
/-! SUPPORT. What each operand form, word primitive and transform gives at each index, so that no later proof unfolds
them; and the recurrence of the schedule words. -/

namespace Sys2Proof.Machine

@[simp] theorem getElem_xorBytes {n : Nat} (a b : Vector Byte n) (k : Nat) (h : k < n) :
    (xorBytes a b)[k] = a[k] ^^^ b[k] := by
  simp [xorBytes]

theorem xorBytes_comm {n : Nat} (a b : Vector Byte n) : xorBytes a b = xorBytes b a := by
  ext k hk
  simp [BitVec.xor_comm]

theorem xorBytes_assoc {n : Nat} (a b c : Vector Byte n) :
    xorBytes (xorBytes a b) c = xorBytes a (xorBytes b c) := by
  ext k hk
  simp [BitVec.xor_assoc]

/-- XORing the same bytes twice cancels. -/
@[simp] theorem xorBytes_cancel {n : Nat} (a b : Vector Byte n) : xorBytes (xorBytes a b) b = a := by
  ext k hk
  simp

@[simp] theorem slot_val (j : Nat) : (slot j).val = j % 8 := rfl

@[simp] theorem getElem_keyWord (key : KeyBuffer) (w : Fin 8) (k : Nat) (h : k < 4) :
    (keyWord key w)[k] = key[4 * w.val + k] := by
  simp [keyWord]

/-- Byte `k` of the key is byte `k mod 4` of key word `k div 4`. -/
theorem getElem_eq_keyWord (key : KeyBuffer) (k : Nat) (h : k < 32) :
    key[k] = (keyWord key ⟨k / 4, by omega⟩)[k % 4]'(by omega) := by
  simp [Nat.div_add_mod]

/-- Two key buffers with the same eight words are equal. -/
theorem keyBuffer_ext {a b : KeyBuffer} (h : ∀ w, keyWord a w = keyWord b w) : a = b := by
  ext k hk
  rw [getElem_eq_keyWord a k hk, getElem_eq_keyWord b k hk, h]

@[simp] theorem keyWord_setKeyWord_same (key : KeyBuffer) (w : Fin 8) (v : Word) :
    keyWord (setKeyWord key w v) w = v := by
  ext k hk
  have h1 : (4 * w.val + k) / 4 = w.val := by omega
  have h2 : (4 * w.val + k) % 4 = k := by omega
  simp [setKeyWord, h1, h2]

theorem keyWord_setKeyWord_other (key : KeyBuffer) {w u : Fin 8} (v : Word) (h : u ≠ w) :
    keyWord (setKeyWord key w v) u = keyWord key u := by
  ext k hk
  have h1 : (4 * u.val + k) / 4 = u.val := by omega
  have h2 : u.val ≠ w.val := fun e => h (Fin.ext e)
  simp [setKeyWord, h1, h2]

@[simp] theorem getElem_keyHalf_lo (key : KeyBuffer) (k : Nat) (h : k < 16) :
    (keyHalf key .lo)[k] = key[k] := by
  simp [keyHalf]

@[simp] theorem getElem_keyHalf_hi (key : KeyBuffer) (k : Nat) (h : k < 16) :
    (keyHalf key .hi)[k] = key[16 + k] := by
  simp [keyHalf]

@[simp] theorem cell_ofCells (f : Fin 4 → Fin 4 → Byte) (r c : Fin 4) : cell (ofCells f) r c = f r c := by
  have h1 : (r.val + 4 * c.val) % 4 = r.val := by omega
  have h2 : (r.val + 4 * c.val) / 4 = c.val := by omega
  simp [cell, ofCells, h1, h2]

/-- Byte `k` of a block is the cell at row `k mod 4` and column `k div 4`. -/
theorem getElem_eq_cell (s : Block) (k : Nat) (h : k < 16) :
    s[k] = cell s ⟨k % 4, by omega⟩ ⟨k / 4, by omega⟩ := by
  simp [cell, Nat.mod_add_div]

/-- Two blocks with the same cells are equal. -/
theorem block_ext_cell {a b : Block} (h : ∀ r c, cell a r c = cell b r c) : a = b := by
  ext k hk
  rw [getElem_eq_cell a k hk, getElem_eq_cell b k hk, h]

@[simp] theorem cell_xorBytes (a b : Block) (r c : Fin 4) : cell (xorBytes a b) r c = cell a r c ^^^ cell b r c := by
  simp [cell]

@[simp] theorem getElem_subWord (w : Word) (k : Nat) (h : k < 4) : (subWord w)[k] = substitute w[k] := by
  simp [subWord]

@[simp] theorem getElem_subBytes (s : Block) (k : Nat) (h : k < 16) : (subBytes s)[k] = substitute s[k] := by
  simp [subBytes]

@[simp] theorem cell_subBytes (s : Block) (r c : Fin 4) : cell (subBytes s) r c = substitute (cell s r c) := by
  simp [cell]

@[simp] theorem cell_shiftRows (s : Block) (r c : Fin 4) : cell (shiftRows s) r c = cell s r (c + r) := by
  simp [shiftRows]

@[simp] theorem cell_mixColumns (s : Block) (j c : Fin 4) :
    cell (mixColumns s) j c = cell s j c ^^^ xtime (cell s j c ^^^ cell s (j + 1) c) ^^^ columnXor s c := by
  simp [mixColumns]

/-- `KeyGen(j)` changes nothing for `j < 8`. -/
theorem keyGen_of_lt {j : Nat} (h : j < 8) (key : KeyBuffer) : keyGen j key = key := by
  simp [keyGen, h]

/-- For `j ≥ 8` the sink word takes the XOR of itself and the transformed source word. -/
theorem keyWord_keyGen_sink {j : Nat} (h : 8 ≤ j) (key : KeyBuffer) :
    keyWord (keyGen j key) (slot j) =
      xorBytes (keyWord key (slot j)) (scratchTransform j (keyWord key (slot (j - 1)))) := by
  have hj : ¬ j < 8 := by omega
  simp [keyGen, hj]

/-- `KeyGen(j)` leaves every word but the sink word as it was. -/
theorem keyWord_keyGen_other {j : Nat} {w : Fin 8} (h : w ≠ slot j) (key : KeyBuffer) :
    keyWord (keyGen j key) w = keyWord key w := by
  unfold keyGen
  split
  · rfl
  · exact keyWord_setKeyWord_other key _ h

namespace Reference

/-- Enough fuel does not change a schedule word. -/
theorem scheduleWordFuel_eq (key : KeyBuffer) :
    ∀ (a b j : Nat), j < a → j < b → scheduleWordFuel key a j = scheduleWordFuel key b j := by
  intro a
  induction a with
  | zero => intro b j h; omega
  | succ a ih =>
    intro b j ha hb
    cases b with
    | zero => omega
    | succ b =>
      unfold scheduleWordFuel
      split
      · rfl
      · rw [ih b (j - 8) (by omega) (by omega), ih b (j - 1) (by omega) (by omega)]

/-- The first eight schedule words are the key words. -/
theorem scheduleWord_of_lt (key : KeyBuffer) {j : Nat} (h : j < 8) : scheduleWord key j = keyWord key ⟨j, h⟩ := by
  simp [scheduleWord, scheduleWordFuel, h]

/-- The recurrence of the schedule words from index 8 on. -/
theorem scheduleWord_of_le (key : KeyBuffer) {j : Nat} (h : 8 ≤ j) :
    scheduleWord key j =
      xorBytes (scheduleWord key (j - 8)) (scheduleTransform j (scheduleWord key (j - 1))) := by
  have hj : ¬ j < 8 := by omega
  unfold scheduleWord
  conv => lhs; unfold scheduleWordFuel
  rw [dif_neg hj, scheduleWordFuel_eq key j (j - 8 + 1) (j - 8) (by omega) (by omega),
    scheduleWordFuel_eq key j (j - 1 + 1) (j - 1) (by omega) (by omega)]

end Reference

end Sys2Proof.Machine
end

