-- ==== Sys2Proof/Laws/PerInstr.lean ====
section
/-! SUPPORT. Statements about every command as syntax, one lemma per constructor. -/

namespace Sys2Proof.Laws.Encoding

/-- A command is well formed, its byte is a legal one, and its encoding decodes to it alone
(30_encoding.md R80, R81). -/
def Statement (i : Instr) : Prop :=
  i.wellFormed = true ∧ commandByteWellFormed (opcode i) = true ∧ decode (encode i) = .command i []

theorem nop : Statement .nop := ⟨rfl, rfl, rfl⟩
theorem rotword : Statement .rotword := ⟨rfl, rfl, rfl⟩
theorem subword : Statement .subword := ⟨rfl, rfl, rfl⟩
theorem xorrcon : Statement .xorrcon := ⟨rfl, rfl, rfl⟩
theorem keystep : Statement .keystep := ⟨rfl, rfl, rfl⟩
theorem subbytes : Statement .subbytes := ⟨rfl, rfl, rfl⟩
theorem shiftrows : Statement .shiftrows := ⟨rfl, rfl, rfl⟩
theorem mixcolumns : Statement .mixcolumns := ⟨rfl, rfl, rfl⟩
theorem arkLo : Statement .arkLo := ⟨rfl, rfl, rfl⟩
theorem arkHi : Statement .arkHi := ⟨rfl, rfl, rfl⟩
theorem encInit : Statement .encInit := ⟨rfl, rfl, rfl⟩
theorem encStep : Statement .encStep := ⟨rfl, rfl, rfl⟩
theorem encrypt : Statement .encrypt := ⟨rfl, rfl, rfl⟩

end Sys2Proof.Laws.Encoding
end

