-- ==== Sys2Proof/Laws/State.lean ====
section
/-! SUPPORT. What each shared operation does to each field of the state: one lemma per field per operation. -/

namespace Sys2Proof.Machine


@[simp] theorem State.raiseErr_key (s : State) (f : ErrFlag) : (s.raiseErr f).key = s.key := by cases f <;> rfl
@[simp] theorem State.raiseErr_state (s : State) (f : ErrFlag) : (s.raiseErr f).state = s.state := by cases f <;> rfl
@[simp] theorem State.raiseErr_word (s : State) (f : ErrFlag) : (s.raiseErr f).word = s.word := by cases f <;> rfl
@[simp] theorem State.raiseErr_widx (s : State) (f : ErrFlag) : (s.raiseErr f).widx = s.widx := by cases f <;> rfl
@[simp] theorem State.raiseErr_iter (s : State) (f : ErrFlag) : (s.raiseErr f).iter = s.iter := by cases f <;> rfl
@[simp] theorem State.raiseErr_sboxIn (s : State) (f : ErrFlag) : (s.raiseErr f).sboxIn = s.sboxIn := by cases f <;> rfl
@[simp] theorem State.raiseErr_errIll (s : State) (f : ErrFlag) : (s.raiseErr f).errIll = (s.errIll || f == .ill) := by
  cases f <;> simp [State.raiseErr]
@[simp] theorem State.raiseErr_errBusy (s : State) (f : ErrFlag) : (s.raiseErr f).errBusy = (s.errBusy || f == .busy) := by
  cases f <;> simp [State.raiseErr]
@[simp] theorem State.raiseErr_errSeq (s : State) (f : ErrFlag) : (s.raiseErr f).errSeq = (s.errSeq || f == .seq) := by
  cases f <;> simp [State.raiseErr]
@[simp] theorem State.raiseErr_pend (s : State) (f : ErrFlag) : (s.raiseErr f).pend = s.pend := by cases f <;> rfl
@[simp] theorem State.raiseErr_inputs (s : State) (f : ErrFlag) : (s.raiseErr f).inputs = s.inputs := by cases f <;> rfl
@[simp] theorem State.raiseErr_reads (s : State) (f : ErrFlag) : (s.raiseErr f).reads = s.reads := by cases f <;> rfl

@[simp] theorem State.acknowledge_key (s : State) (v : Byte) : (s.acknowledge v).key = s.key := rfl
@[simp] theorem State.acknowledge_state (s : State) (v : Byte) : (s.acknowledge v).state = s.state := rfl
@[simp] theorem State.acknowledge_word (s : State) (v : Byte) : (s.acknowledge v).word = s.word := rfl
@[simp] theorem State.acknowledge_widx (s : State) (v : Byte) : (s.acknowledge v).widx = s.widx := rfl
@[simp] theorem State.acknowledge_iter (s : State) (v : Byte) : (s.acknowledge v).iter = s.iter := rfl
@[simp] theorem State.acknowledge_sboxIn (s : State) (v : Byte) : (s.acknowledge v).sboxIn = s.sboxIn := rfl
@[simp] theorem State.acknowledge_errIll (s : State) (v : Byte) : (s.acknowledge v).errIll = (s.errIll && !v.getLsbD 1) := rfl
@[simp] theorem State.acknowledge_errBusy (s : State) (v : Byte) : (s.acknowledge v).errBusy = (s.errBusy && !v.getLsbD 2) := rfl
@[simp] theorem State.acknowledge_errSeq (s : State) (v : Byte) : (s.acknowledge v).errSeq = (s.errSeq && !v.getLsbD 3) := rfl
@[simp] theorem State.acknowledge_pend (s : State) (v : Byte) : (s.acknowledge v).pend = s.pend := rfl
@[simp] theorem State.acknowledge_inputs (s : State) (v : Byte) : (s.acknowledge v).inputs = s.inputs := rfl
@[simp] theorem State.acknowledge_reads (s : State) (v : Byte) : (s.acknowledge v).reads = s.reads := rfl

@[simp] theorem State.accept_key (s : State) (i : Instr) : (s.accept i).key = s.key := rfl
@[simp] theorem State.accept_state (s : State) (i : Instr) : (s.accept i).state = s.state := rfl
@[simp] theorem State.accept_word (s : State) (i : Instr) : (s.accept i).word = s.word := rfl
@[simp] theorem State.accept_widx (s : State) (i : Instr) : (s.accept i).widx = s.widx := rfl
@[simp] theorem State.accept_iter (s : State) (i : Instr) : (s.accept i).iter = s.iter := rfl
@[simp] theorem State.accept_sboxIn (s : State) (i : Instr) : (s.accept i).sboxIn = s.sboxIn := rfl
@[simp] theorem State.accept_errIll (s : State) (i : Instr) : (s.accept i).errIll = s.errIll := rfl
@[simp] theorem State.accept_errBusy (s : State) (i : Instr) : (s.accept i).errBusy = s.errBusy := rfl
@[simp] theorem State.accept_errSeq (s : State) (i : Instr) : (s.accept i).errSeq = s.errSeq := rfl
@[simp] theorem State.accept_pend (s : State) (i : Instr) : (s.accept i).pend = some i := rfl
@[simp] theorem State.accept_inputs (s : State) (i : Instr) : (s.accept i).inputs = s.inputs := rfl
@[simp] theorem State.accept_reads (s : State) (i : Instr) : (s.accept i).reads = s.reads := rfl

@[simp] theorem State.retire_key (s : State) : (s.retire).key = s.key := rfl
@[simp] theorem State.retire_state (s : State) : (s.retire).state = s.state := rfl
@[simp] theorem State.retire_word (s : State) : (s.retire).word = s.word := rfl
@[simp] theorem State.retire_widx (s : State) : (s.retire).widx = s.widx := rfl
@[simp] theorem State.retire_iter (s : State) : (s.retire).iter = s.iter := rfl
@[simp] theorem State.retire_sboxIn (s : State) : (s.retire).sboxIn = s.sboxIn := rfl
@[simp] theorem State.retire_errIll (s : State) : (s.retire).errIll = s.errIll := rfl
@[simp] theorem State.retire_errBusy (s : State) : (s.retire).errBusy = s.errBusy := rfl
@[simp] theorem State.retire_errSeq (s : State) : (s.retire).errSeq = s.errSeq := rfl
@[simp] theorem State.retire_pend (s : State) : (s.retire).pend = none := rfl
@[simp] theorem State.retire_inputs (s : State) : (s.retire).inputs = s.inputs := rfl
@[simp] theorem State.retire_reads (s : State) : (s.retire).reads = s.reads := rfl

@[simp] theorem State.hostRead_key (s : State) (a : Addr) : (s.hostRead a).key = s.key := rfl
@[simp] theorem State.hostRead_state (s : State) (a : Addr) : (s.hostRead a).state = s.state := rfl
@[simp] theorem State.hostRead_word (s : State) (a : Addr) : (s.hostRead a).word = s.word := rfl
@[simp] theorem State.hostRead_widx (s : State) (a : Addr) : (s.hostRead a).widx = s.widx := rfl
@[simp] theorem State.hostRead_iter (s : State) (a : Addr) : (s.hostRead a).iter = s.iter := rfl
@[simp] theorem State.hostRead_sboxIn (s : State) (a : Addr) : (s.hostRead a).sboxIn = s.sboxIn := rfl
@[simp] theorem State.hostRead_errIll (s : State) (a : Addr) : (s.hostRead a).errIll = s.errIll := rfl
@[simp] theorem State.hostRead_errBusy (s : State) (a : Addr) : (s.hostRead a).errBusy = s.errBusy := rfl
@[simp] theorem State.hostRead_errSeq (s : State) (a : Addr) : (s.hostRead a).errSeq = s.errSeq := rfl
@[simp] theorem State.hostRead_pend (s : State) (a : Addr) : (s.hostRead a).pend = s.pend := rfl
@[simp] theorem State.hostRead_inputs (s : State) (a : Addr) : (s.hostRead a).inputs = s.inputs := rfl
@[simp] theorem State.hostRead_reads (s : State) (a : Addr) : (s.hostRead a).reads = s.reads ++ [s.memRead a] := rfl

@[simp] theorem State.resetEngine_key (s : State) : (s.resetEngine).key = State.reset.key := rfl
@[simp] theorem State.resetEngine_state (s : State) : (s.resetEngine).state = State.reset.state := rfl
@[simp] theorem State.resetEngine_word (s : State) : (s.resetEngine).word = State.reset.word := rfl
@[simp] theorem State.resetEngine_widx (s : State) : (s.resetEngine).widx = State.reset.widx := rfl
@[simp] theorem State.resetEngine_iter (s : State) : (s.resetEngine).iter = State.reset.iter := rfl
@[simp] theorem State.resetEngine_sboxIn (s : State) : (s.resetEngine).sboxIn = State.reset.sboxIn := rfl
@[simp] theorem State.resetEngine_errIll (s : State) : (s.resetEngine).errIll = State.reset.errIll := rfl
@[simp] theorem State.resetEngine_errBusy (s : State) : (s.resetEngine).errBusy = State.reset.errBusy := rfl
@[simp] theorem State.resetEngine_errSeq (s : State) : (s.resetEngine).errSeq = State.reset.errSeq := rfl
@[simp] theorem State.resetEngine_pend (s : State) : (s.resetEngine).pend = State.reset.pend := rfl
@[simp] theorem State.resetEngine_inputs (s : State) : (s.resetEngine).inputs = s.inputs := rfl
@[simp] theorem State.resetEngine_reads (s : State) : (s.resetEngine).reads = s.reads := rfl

@[simp] theorem State.encInitBody_key (s : State) : (s.encInitBody).key = s.key := rfl
@[simp] theorem State.encInitBody_state (s : State) : (s.encInitBody).state = addRoundKey s.state s.key .lo := rfl
@[simp] theorem State.encInitBody_word (s : State) : (s.encInitBody).word = s.word := rfl
@[simp] theorem State.encInitBody_widx (s : State) : (s.encInitBody).widx = s.widx := rfl
@[simp] theorem State.encInitBody_iter (s : State) : (s.encInitBody).iter = 1 := rfl
@[simp] theorem State.encInitBody_sboxIn (s : State) : (s.encInitBody).sboxIn = s.sboxIn := rfl
@[simp] theorem State.encInitBody_errIll (s : State) : (s.encInitBody).errIll = s.errIll := rfl
@[simp] theorem State.encInitBody_errBusy (s : State) : (s.encInitBody).errBusy = s.errBusy := rfl
@[simp] theorem State.encInitBody_errSeq (s : State) : (s.encInitBody).errSeq = s.errSeq := rfl
@[simp] theorem State.encInitBody_pend (s : State) : (s.encInitBody).pend = s.pend := rfl
@[simp] theorem State.encInitBody_inputs (s : State) : (s.encInitBody).inputs = s.inputs := rfl
@[simp] theorem State.encInitBody_reads (s : State) : (s.encInitBody).reads = s.reads := rfl

@[simp] theorem State.iterate_key (s : State) : (s.iterate).key = keyGen (s.iter.toNat + wordIndexOffset) s.key := rfl
@[simp] theorem State.iterate_state (s : State) : (s.iterate).state = iterationRound s.iter.toNat (keyGen (s.iter.toNat + wordIndexOffset) s.key) s.state := rfl
@[simp] theorem State.iterate_word (s : State) : (s.iterate).word = s.word := rfl
@[simp] theorem State.iterate_widx (s : State) : (s.iterate).widx = s.widx := rfl
@[simp] theorem State.iterate_iter (s : State) : (s.iterate).iter = s.iter + 1 := rfl
@[simp] theorem State.iterate_sboxIn (s : State) : (s.iterate).sboxIn = s.sboxIn := rfl
@[simp] theorem State.iterate_errIll (s : State) : (s.iterate).errIll = s.errIll := rfl
@[simp] theorem State.iterate_errBusy (s : State) : (s.iterate).errBusy = s.errBusy := rfl
@[simp] theorem State.iterate_errSeq (s : State) : (s.iterate).errSeq = s.errSeq := rfl
@[simp] theorem State.iterate_pend (s : State) : (s.iterate).pend = s.pend := rfl
@[simp] theorem State.iterate_inputs (s : State) : (s.iterate).inputs = s.inputs := rfl
@[simp] theorem State.iterate_reads (s : State) : (s.iterate).reads = s.reads := rfl

/-- Raising an error condition sets its own flag and leaves the others. -/
@[simp] theorem State.raiseErr_flag (s : State) (f g : ErrFlag) :
    (s.raiseErr f).flag g = (s.flag g || f == g) := by
  cases f <;> cases g <;> simp [State.raiseErr, State.flag]

/-- Acknowledging clears a flag exactly when its bit of the byte written is set. -/
@[simp] theorem State.acknowledge_flag (s : State) (v : Byte) (f : ErrFlag) :
    (s.acknowledge v).flag f = (s.flag f && !v.getLsbD f.code) := by
  cases f <;> rfl

/-- `BUSY` is read from `PEND` alone. -/
theorem State.busy_eq_true_iff (s : State) : s.busy = true ↔ s.pend ≠ none := by
  cases h : s.pend <;> simp [State.busy, h]

/-- Acceptance sets `BUSY`. -/
@[simp] theorem State.accept_busy (s : State) (i : Instr) : (s.accept i).busy = true := rfl

/-- Retirement clears `BUSY`. -/
@[simp] theorem State.retire_busy (s : State) : s.retire.busy = false := rfl

end Sys2Proof.Machine
end

