-- ==== Sys2Proof/Laws/Window.lean ====
section
/-! SUPPORT. The register map, and what a host read and a host write can do. -/

namespace Sys2Proof.Machine

/-- `STATUS` stands at 0x31 and nowhere else. -/
theorem decodeAddr_eq_status_iff (a : Addr) : decodeAddr a = .status ↔ a = 0x31 := by
  revert a; decide

/-- `KEY[k]` stands at address `k` (10_state.md R20). -/
theorem decodeAddr_key (k : Fin 32) : decodeAddr (BitVec.ofNat 6 k.val) = .key k := by
  revert k; decide

/-- `STATE[k]` stands at address `0x20 + k` (10_state.md R20). -/
theorem decodeAddr_state (k : Fin 16) : decodeAddr (BitVec.ofNat 6 (0x20 + k.val)) = .state k := by
  revert k; decide

/-- `WORD[k]` stands at address `0x34 + k` (10_state.md R20). -/
theorem decodeAddr_word (k : Fin 4) : decodeAddr (BitVec.ofNat 6 (0x34 + k.val)) = .word k := by
  revert k; decide

/-- The addresses 0x3B to 0x3F are reserved (10_state.md R39). -/
theorem decodeAddr_reserved {a : Addr} (h : 0x3B ≤ a.toNat) : decodeAddr a = .reserved := by
  revert a; decide

/-- Only a reserved address is met twice in the register map: every other register has one address. -/
theorem decodeAddr_inj {a b : Addr} (h : decodeAddr a = decodeAddr b) (hr : decodeAddr a ≠ .reserved) : a = b := by
  revert a b; decide

/-- An idle engine shows the window. -/
theorem State.memRead_of_idle {s : State} (h : s.pend = none) (a : Addr) : s.memRead a = s.window a := by
  simp [State.memRead, State.busy, h]

/-- A busy engine shows 0x00 at every address but `STATUS`. -/
theorem State.memRead_of_busy {s : State} {i : Instr} (h : s.pend = some i) {a : Addr} (ha : a ≠ 0x31) :
    s.memRead a = 0 := by
  have hd : decodeAddr a ≠ .status := fun e => ha ((decodeAddr_eq_status_iff a).1 e)
  simp [State.memRead, State.busy, h, hd]

/-- `STATUS` is live at all times. -/
theorem State.memRead_status (s : State) : s.memRead 0x31 = statusByte s := by
  have hd : decodeAddr 0x31 = .status := rfl
  unfold State.memRead State.window
  rw [hd]
  exact if_neg fun h => h.2 rfl

/-- An idle engine performs the write. -/
theorem State.memWrite_of_idle {s : State} (h : s.pend = none) (a : Addr) (v : Byte) :
    s.memWrite a v = s.writeReg v (decodeAddr a) := by
  simp [State.memWrite, State.busy, h]

/-- A busy engine drops the write and raises `ERR_BUSY`. -/
theorem State.memWrite_of_busy {s : State} {i : Instr} (h : s.pend = some i) {a : Addr} (ha : a ≠ 0x31) (v : Byte) :
    s.memWrite a v = s.raiseErr .busy := by
  have hd : decodeAddr a ≠ .status := fun e => ha ((decodeAddr_eq_status_iff a).1 e)
  simp [State.memWrite, State.busy, h, hd]

/-- A `STATUS` write acknowledges at all times. -/
theorem State.memWrite_status (s : State) (v : Byte) : s.memWrite 0x31 v = s.acknowledge v := by
  have hd : decodeAddr 0x31 = .status := rfl
  unfold State.memWrite
  rw [hd]
  exact if_neg fun h => h.2 rfl

/-- A command write is an acceptance or raises `ERR_ILL`. -/
theorem State.command_cases (s : State) (v : Byte) :
    (∃ i, commandOf v = some i ∧ s.command v = s.accept i) ∨
      (commandOf v = none ∧ s.command v = s.raiseErr .ill) := by
  cases h : commandOf v <;> simp [State.command, decode, h]

/-- Whatever the host writes, the write leaves `ITER`, the host's events and what the host has read as they were. -/
theorem State.memWrite_keeps (s : State) (a : Addr) (v : Byte) :
    (s.memWrite a v).iter = s.iter ∧ (s.memWrite a v).inputs = s.inputs ∧ (s.memWrite a v).reads = s.reads := by
  unfold State.memWrite
  split
  · simp
  · cases decodeAddr a <;> simp [State.writeReg]
    rcases s.command_cases v with ⟨i, _, h⟩ | ⟨_, h⟩ <;> simp [h]

end Sys2Proof.Machine
end

