-- ==== Sys2Proof/Laws/Step.lean ====
section
/-! SUPPORT. What a completion and a step can do. -/

namespace Sys2Proof.Machine

/-- The rule of each command, before `PEND` is cleared (30_encoding.md R81, the rule column). -/
def effect (i : Instr) (s : State) : State :=
  match i with
  | .nop => s
  | .rotword => { s with word := rotWord s.word }
  | .subword => { s with word := subWord s.word }
  | .xorrcon => { s with word := xorRcon s.widx.toNat s.word }
  | .keystep => { s with key := keyGen s.widx.toNat s.key, widx := s.widx + 1 }
  | .subbytes => { s with state := subBytes s.state }
  | .shiftrows => { s with state := shiftRows s.state }
  | .mixcolumns => { s with state := mixColumns s.state }
  | .arkLo => { s with state := addRoundKey s.state s.key .lo }
  | .arkHi => { s with state := addRoundKey s.state s.key .hi }
  | .encInit => s.encInitBody
  | .encStep => s.encStepBody
  | .encrypt => State.encSteps loopLast s.encInitBody

/-- Every completion applies its command's rule and retires it. -/
theorem exec_eq_effect (i : Instr) (s : State) : exec i s = .next (effect i s).retire := by
  cases i <;> rfl

/-- An ENC_STEP body in range is one iteration. -/
theorem State.encStepBody_of_inRange {s : State} (h1 : 1 ≤ s.iter.toNat) (h2 : s.iter.toNat ≤ 59) :
    s.encStepBody = s.iterate := by
  have h : ¬ (s.iter.toNat < 1 ∨ loopLast < s.iter.toNat) := by unfold loopLast; omega
  simp only [State.encStepBody, if_neg h]

/-- An ENC_STEP body out of range raises `ERR_SEQ`. -/
theorem State.encStepBody_of_outOfRange {s : State} (h : s.iter.toNat < 1 ∨ 59 < s.iter.toNat) :
    s.encStepBody = s.raiseErr .seq := by
  have h' : s.iter.toNat < 1 ∨ loopLast < s.iter.toNat := h
  simp only [State.encStepBody, if_pos h']

/-- The last of `n + 1` ENC_STEP bodies comes after `n` of them. -/
theorem State.encSteps_succ (n : Nat) (s : State) :
    State.encSteps (n + 1) s = (State.encSteps n s).encStepBody := by
  induction n generalizing s with
  | zero => rfl
  | succ n ih => exact ih s.encStepBody

/-- `n` ENC_STEP bodies from ITER = 1 leave `ITER = n + 1` and write nothing but `KEY`, `STATE` and `ITER`. -/
theorem State.encSteps_frame (s : State) (h : s.iter = 1) :
    ∀ n, n ≤ 59 → ∃ (key : KeyBuffer) (b : Block),
      State.encSteps n s = { s with key := key, state := b, iter := BitVec.ofNat 8 (n + 1) } := by
  intro n
  induction n with
  | zero => intro _; exact ⟨s.key, s.state, by cases s; cases h; rfl⟩
  | succ n ih =>
    intro hn
    obtain ⟨key, b, e⟩ := ih (by omega)
    have hi : (BitVec.ofNat 8 (n + 1)).toNat = n + 1 := by simp; omega
    rw [State.encSteps_succ, e, State.encStepBody_of_inRange (by simp only [hi]; omega) (by simp only [hi]; omega)]
    have hp : BitVec.ofNat 8 (n + 1 + 1) = BitVec.ofNat 8 (n + 1) + 1 := by
      apply BitVec.eq_of_toNat_eq
      simp
    refine ⟨keyGen ((BitVec.ofNat 8 (n + 1)).toNat + wordIndexOffset) key,
      iterationRound (BitVec.ofNat 8 (n + 1)).toNat
        (keyGen ((BitVec.ofNat 8 (n + 1)).toNat + wordIndexOffset) key) b, ?_⟩
    rw [hp]
    rfl

/-- The step, event by event: the one inversion of `step`. -/
theorem step_cases (s : State) :
    (∃ i, s.pend = some i ∧ (s.inputs = [] ∨ s.inputs.head? = some .engine) ∧
        step s = .next (effect i { s with inputs := s.inputs.tail }).retire) ∨
    (s.pend = none ∧ (s.inputs = [] ∨ s.inputs.head? = some .engine) ∧
        step s = .next { s with inputs := s.inputs.tail }) ∨
    (∃ a, s.inputs.head? = some (.read a) ∧
        step s = .next (State.hostRead { s with inputs := s.inputs.tail } a)) ∨
    (∃ a v, s.inputs.head? = some (.write a v) ∧
        step s = .next (State.memWrite { s with inputs := s.inputs.tail } a v)) ∨
    (s.inputs.head? = some .reset ∧
        step s = .next (State.resetEngine { s with inputs := s.inputs.tail })) := by
  obtain ⟨key, state, word, widx, iter, sboxIn, e1, e2, e3, pend, inputs, reads⟩ := s
  rcases inputs with _ | ⟨e, rest⟩
  · cases pend with
    | none => exact .inr (.inl ⟨rfl, .inl rfl, rfl⟩)
    | some i => exact .inl ⟨i, rfl, .inl rfl, exec_eq_effect i _⟩
  · cases e with
    | read a => exact .inr (.inr (.inl ⟨a, rfl, rfl⟩))
    | write a v => exact .inr (.inr (.inr (.inl ⟨a, v, rfl, rfl⟩)))
    | engine =>
      cases pend with
      | none => exact .inr (.inl ⟨rfl, .inr rfl, rfl⟩)
      | some i => exact .inl ⟨i, rfl, .inr rfl, exec_eq_effect i _⟩
    | reset => exact .inr (.inr (.inr (.inr ⟨rfl, rfl⟩)))

end Sys2Proof.Machine
end

