-- ==== Sys2Proof/Machine/HostProgram.lean ====
section
/-! DEFINITION. The host-side way of writing bus accesses (30_encoding.md R89, R90): each form expands to the events
it stands for. A `WAIT` polls until the pending command has completed; how many polls see `BUSY = 1` is open, so it is
an argument. -/

namespace Sys2Proof.Machine.HostProgram

/-- `WR a, v` (30_encoding.md R89). -/
def wr (a : Addr) (v : Byte) : List Event := [.write a v]

/-- `RD a` (30_encoding.md R89). -/
def rd (a : Addr) : List Event := [.read a]

/-- `CMD m` is `WR 0x30, code(m)` (30_encoding.md R89). -/
def cmd (m : Instr) : List Event := wr 0x30 (opcode m)

/-- `CLR v` is `WR 0x31, v` (30_encoding.md R89). -/
def clr (v : Byte) : List Event := wr 0x31 v

/-- `WAIT`: `polls` reads of `STATUS` before the completion, the completion, and the read that sees `BUSY = 0`
(30_encoding.md R90, log entry 12). -/
def wait (polls : Nat) : List Event := List.replicate polls (.read 0x31) ++ [.engine, .read 0x31]

/-- One write for each byte of `v`, at ascending addresses from `base`. -/
def load {n : Nat} (base : Nat) (v : Vector Byte n) : List Event :=
  List.ofFn fun k : Fin n => .write (BitVec.ofNat 6 (base + k.val)) v[k]

/-- One read at each of the `n` ascending addresses from `base`. -/
def readFrom (base n : Nat) : List Event :=
  List.ofFn fun k : Fin n => .read (BitVec.ofNat 6 (base + k.val))

/-- `LOADKEY` (30_encoding.md R90). -/
def loadKey (k : KeyBuffer) : List Event := load 0x00 k

/-- `LOADSTATE` (30_encoding.md R90). -/
def loadState (b : Block) : List Event := load 0x20 b

/-- `LOADWORD` (30_encoding.md R90). -/
def loadWord (w : Word) : List Event := load 0x34 w

/-- `READKEY` (30_encoding.md R90). -/
def readKey : List Event := readFrom 0x00 32

/-- `READSTATE` (30_encoding.md R90). -/
def readState : List Event := readFrom 0x20 16

/-- `READWORD` (30_encoding.md R90). -/
def readWord : List Event := readFrom 0x34 4

/-- `RUN m` is `CMD m; WAIT` (30_encoding.md R90). -/
def run (m : Instr) (polls : Nat) : List Event := cmd m ++ wait polls

/-- `ENCRYPTBLOCK k, p` is `LOADKEY k; LOADSTATE p; RUN ENCRYPT; READSTATE` (30_encoding.md R90). -/
def encryptBlock (k : KeyBuffer) (p : Block) (polls : Nat) : List Event :=
  loadKey k ++ loadState p ++ run .encrypt polls ++ readState

end Sys2Proof.Machine.HostProgram
end

