-- ==== Sys2Proof/Tests/Slice0.lean ====
section
/-! SUPPORT. Tests against the spec's own vectors (95_test_vectors.md and the examples in the rules), and for every
obligation with hypotheses a witness that meets them together. -/

namespace Sys2Proof.Tests

open Sys2Proof Sys2Proof.Machine

/-! ## Helpers -/

/-- The state an outcome goes on in, if it goes on. -/
def after : Host.Outcome State Fault Refusal → Option State
  | .next t => some t
  | .fault _ => none
  | .refused _ => none

/-- `KEY[k] = k` (10_state.md R23). -/
def keyRamp : KeyBuffer := Vector.ofFn fun k => BitVec.ofNat 8 k.val

/-- `00 10 20 … F0`, the state `s0` of 44_state_transforms.md. -/
def s0 : Block := Vector.ofFn fun k => BitVec.ofNat 8 (0x10 * k.val)

/-- `00 11 22 … FF`, the §8 plaintext (V1). -/
def plaintext : Block := Vector.ofFn fun k => BitVec.ofNat 8 (0x11 * k.val)

/-- The reset state with the §8 key, the block `s0`, and given `WORD`, `WIDX`, `ITER`. -/
def start (word : Word) (widx iter : Byte) : State :=
  { State.reset with key := keyRamp, state := s0, word := word, widx := widx, iter := iter }

/-- A word of four zero bytes. -/
def zeroWord : Word := #v[0x00, 0x00, 0x00, 0x00]

/-- The reset state with a command pending and events to come. -/
def pending (i : Instr) (inputs : List Event) : State := { State.reset with pend := some i, inputs := inputs }

/-- The reset state with events to come. -/
def idle (inputs : List Event) : State := { State.reset with inputs := inputs }

/-! ## Well-formedness: the check accepts the last legal byte and refuses its illegal neighbours (R81, R87) -/

theorem test_wellFormed_last_legal : commandByteWellFormed 0x0C = true := by decide
theorem test_wellFormed_refuses_0D : commandByteWellFormed 0x0D = false := by decide
theorem test_wellFormed_refuses_FF : commandByteWellFormed 0xFF = false := by decide
theorem test_wellFormed_every_command : ∀ i ∈ [Instr.nop, .rotword, .subword, .xorrcon, .keystep, .subbytes, .shiftrows,
    .mixcolumns, .arkLo, .arkHi, .encInit, .encStep, .encrypt], i.wellFormed = true := by decide

/-! ## Decoding: words written out from 30_encoding.md R81 -/

theorem test_decode_nop : decodeTableWord 8 0b00000000 = some .nop := by decide
theorem test_decode_rotword : decodeTableWord 8 0b00000001 = some .rotword := by decide
theorem test_decode_subword : decodeTableWord 8 0b00000010 = some .subword := by decide
theorem test_decode_xorrcon : decodeTableWord 8 0b00000011 = some .xorrcon := by decide
theorem test_decode_keystep : decodeTableWord 8 0b00000100 = some .keystep := by decide
theorem test_decode_subbytes : decodeTableWord 8 0b00000101 = some .subbytes := by decide
theorem test_decode_shiftrows : decodeTableWord 8 0b00000110 = some .shiftrows := by decide
theorem test_decode_mixcolumns : decodeTableWord 8 0b00000111 = some .mixcolumns := by decide
theorem test_decode_arkLo : decodeTableWord 8 0b00001000 = some .arkLo := by decide
theorem test_decode_arkHi : decodeTableWord 8 0b00001001 = some .arkHi := by decide
theorem test_decode_encInit : decodeTableWord 8 0b00001010 = some .encInit := by decide
theorem test_decode_encStep : decodeTableWord 8 0b00001011 = some .encStep := by decide
theorem test_decode_encrypt : decodeTableWord 8 0b00001100 = some .encrypt := by decide
theorem test_decode_refuses_0D : decode [0b00001101#8] = .rejected (.illegalCommand 0x0D) := by decide
theorem test_decode_refuses_FF : decode [0b11111111#8] = .rejected (.illegalCommand 0xFF) := by decide
theorem test_decode_refuses_nothing : decode [] = .rejected .noByte := by decide

/-! ## One step per command -/

/-- 45_orchestrator.md R197: NOP changes nothing but `BUSY`. -/
theorem test_nop :
    after (exec .nop { start #v[0x01, 0x02, 0x03, 0x04] 0x08 0x05 with pend := some .nop, errIll := true }) =
      some { start #v[0x01, 0x02, 0x03, 0x04] 0x08 0x05 with errIll := true } := by decide

/-- V8, row 1. -/
theorem test_rotword :
    after (exec .rotword (start #v[0x1C, 0x1D, 0x1E, 0x1F] 0x08 0x00)) =
      some (start #v[0x1D, 0x1E, 0x1F, 0x1C] 0x08 0x00) := by decide

/-- V8, row 2. -/
theorem test_subword :
    after (exec .subword (start #v[0x1D, 0x1E, 0x1F, 0x1C] 0x08 0x00)) =
      some (start #v[0xA4, 0x72, 0xC0, 0x9C] 0x08 0x00) := by decide

/-- V8, row 3. -/
theorem test_xorrcon :
    after (exec .xorrcon (start #v[0xA4, 0x72, 0xC0, 0x9C] 0x08 0x00)) =
      some (start #v[0xA5, 0x72, 0xC0, 0x9C] 0x08 0x00) := by decide

/-- V8: the largest index with a round constant, and the first without. -/
theorem test_rcon_edge : rcon 71 = 0x80 ∧ rcon 72 = 0x00 ∧ rcon 7 = 0x00 ∧ rcon 255 = 0x00 := by decide

/-- V11, `WIDX` = 08: `KEY[0..3]` becomes A5 73 C2 9F and every other byte keeps its value. -/
theorem test_keystep_writes_w8 :
    after (exec .keystep (start zeroWord 0x08 0x00)) =
      some { start zeroWord 0x09 0x00 with
        key := (((keyRamp.set 0 0xA5).set 1 0x73).set 2 0xC2).set 3 0x9F } := by decide +kernel

/-- V11, `WIDX` = FF: slot 7 and the wrap of `WIDX`. -/
theorem test_keystep_wraps :
    after (exec .keystep (start zeroWord 0xFF 0x00)) =
      some { start zeroWord 0x00 0x00 with
        key := (((keyRamp.set 28 0x04).set 29 0x04).set 30 0x04).set 31 0x04 } := by decide +kernel

/-- 44_state_transforms.md R170, example. -/
theorem test_subbytes :
    (after (exec .subbytes (start zeroWord 0x00 0x00))).map State.state =
      some #v[0x63, 0xCA, 0xB7, 0x04, 0x09, 0x53, 0xD0, 0x51, 0xCD, 0x60, 0xE0, 0xE7, 0xBA, 0x70, 0xE1, 0x8C] := by
  decide +kernel

/-- 44_state_transforms.md R171, example. -/
theorem test_shiftrows :
    (after (exec .shiftrows { State.reset with
      state := #v[0x63, 0xCA, 0xB7, 0x04, 0x09, 0x53, 0xD0, 0x51, 0xCD, 0x60, 0xE0, 0xE7, 0xBA, 0x70, 0xE1, 0x8C] })).map
        State.state =
      some #v[0x63, 0x53, 0xE0, 0x8C, 0x09, 0x60, 0xE1, 0x04, 0xCD, 0x70, 0xB7, 0x51, 0xBA, 0xCA, 0xD0, 0xE7] := by
  decide +kernel

/-- V9: four columns, the third exercising the reduction. -/
theorem test_mixcolumns :
    (after (exec .mixcolumns { State.reset with
      state := #v[0xDB, 0x13, 0x53, 0x45, 0xF2, 0x0A, 0x22, 0x5C, 0x80, 0x00, 0x00, 0x00, 0x63, 0x53, 0xE0, 0x8C] })).map
        State.state =
      some #v[0x8E, 0x4D, 0xA1, 0xBC, 0x9F, 0xDC, 0x58, 0x9D, 0x1B, 0x80, 0x80, 0x9B, 0x5F, 0x72, 0x64, 0x15] := by
  decide +kernel

/-- V10: `xtime`. -/
theorem test_xtime :
    xtime 0x00 = 0x00 ∧ xtime 0x01 = 0x02 ∧ xtime 0x57 = 0xAE ∧ xtime 0x80 = 0x1B ∧ xtime 0xFF = 0xE5 ∧
      xtime 0xAE = 0x47 := by decide

/-- V10: ARK_LO with `KEY[k] = k`. -/
theorem test_arkLo :
    (after (exec .arkLo (start zeroWord 0x00 0x00))).map State.state = some plaintext := by decide +kernel

/-- V10: ARK_HI with `KEY[k] = k`. -/
theorem test_arkHi :
    (after (exec .arkHi (start zeroWord 0x00 0x00))).map State.state =
      some #v[0x10, 0x01, 0x32, 0x23, 0x54, 0x45, 0x76, 0x67, 0x98, 0x89, 0xBA, 0xAB, 0xDC, 0xCD, 0xFE, 0xEF] := by
  decide +kernel

/-- V12: ENC_INIT on the §8 inputs, from an old `ITER`. -/
theorem test_encInit :
    after (exec .encInit { start zeroWord 0x00 0x25 with state := plaintext }) = some (start zeroWord 0x00 0x01) := by
  decide +kernel

/-- 45_orchestrator.md R192, example: the fourth ENC_STEP. -/
theorem test_encStep_round_one :
    after (exec .encStep (start zeroWord 0x00 0x04)) =
      some { start zeroWord 0x00 0x05 with
        key := (((keyRamp.set 0 0xA5).set 1 0x73).set 2 0xC2).set 3 0x9F
        state := #v[0x4F, 0x63, 0x76, 0x06, 0x43, 0xE0, 0xAA, 0x85, 0xEF, 0xA7, 0x21, 0x32, 0x01, 0xA4, 0xE7, 0x05] } := by
  decide +kernel

/-- V12: ENC_STEP from the reset state sets `ERR_SEQ` and changes nothing else. -/
theorem test_encStep_out_of_sequence :
    after (exec .encStep State.reset) = some { State.reset with errSeq := true } := by decide

/-- V1: the one ciphertext the source fixes, with the `KEY` and `ITER` it leaves. -/
theorem test_encrypt_v1 :
    after (exec .encrypt { start zeroWord 0x00 0x25 with state := plaintext }) =
      some { start zeroWord 0x00 0x3C with
        state := #v[0x8E, 0xA2, 0xB7, 0xCA, 0x51, 0x67, 0x45, 0xBF, 0xEA, 0xFC, 0x49, 0x90, 0x4B, 0x49, 0x60, 0x89]
        key := #v[0x24, 0xFC, 0x79, 0xCC, 0xBF, 0x09, 0x79, 0xE9, 0x37, 0x1A, 0xC2, 0x3C, 0x6D, 0x68, 0xDE, 0x36,
          0x72, 0x1F, 0x7B, 0x9C, 0xDB, 0xED, 0x34, 0x7C, 0xA5, 0xBA, 0x1F, 0xD6, 0x68, 0x42, 0xD2, 0x3C] } := by
  decide +kernel

/-! ## The register window (V7, V13) -/

/-- V7: the substitution port. -/
theorem test_sbox_port :
    (after (step { idle [.read 0x39] with sboxIn := 0x53 })).map State.reads = some [0xED] ∧
      (after (step { idle [.read 0x3A] with sboxIn := 0x53 })).map State.reads = some [0xBE] := by decide

/-- V13, row 1: 0x39 reads 0x63 after reset. -/
theorem test_read_after_reset : (after (step (idle [.read 0x39]))).map State.reads = some [0x63] := by decide

/-- V13, row 2: an illegal command byte. -/
theorem test_write_illegal_command :
    after (step (idle [.write 0x30 0x0D])) = some { State.reset with errIll := true } := by decide

/-- V13: a legal command byte is accepted. -/
theorem test_write_legal_command :
    after (step (idle [.write 0x30 0x0C])) = some (pending .encrypt []) := by decide

/-- V13: a write to `ITER` is ignored. -/
theorem test_write_iter : after (step (idle [.write 0x33 0x05])) = some State.reset := by decide

/-- V13: a busy read of `STATUS` shows `BUSY`. -/
theorem test_busy_read_status :
    (after (step (pending .encrypt [.read 0x31]))).map State.reads = some [0x01] := by decide

/-- V13: a busy write is dropped, and an illegal command byte then sets `ERR_BUSY` alone. -/
theorem test_busy_write :
    after (step (pending .encrypt [.write 0x30 0x0D])) = some { pending .encrypt [] with errBusy := true } := by decide

/-- V13: with all flags set, `CLR 0x04` leaves `STATUS` = 0x0A. -/
theorem test_clear_one_flag :
    (after (step { idle [.write 0x31 0x04] with errIll := true, errBusy := true, errSeq := true })).map statusByte =
      some 0x0A := by decide

/-- V13, last row: reset while busy. -/
theorem test_reset_while_busy :
    after (step { pending .encrypt [.reset] with key := keyRamp, errBusy := true, iter := 0x05 }) =
      some State.reset := by decide

/-- 70_reset_and_hazards.md R250: after reset nothing runs. -/
theorem test_reset_runs_nothing : after (step State.reset) = some State.reset := by decide

/-- The next step after `withFetchWord` runs the word's command (here SUBWORD, V8 row 4). -/
theorem test_fetch_word_runs :
    (after (step (State.reset.withFetchWord 8 0x02))).map State.word = some #v[0x63, 0x63, 0x63, 0x63] := by decide

/-- 30_encoding.md R83: the next step after `withFetchWord` of an illegal word sets `ERR_ILL`. -/
theorem test_fetch_illegal_word :
    after (step (State.reset.withFetchWord 8 0x0D)) = some { State.reset with errIll := true } := by decide

/-- 30_encoding.md R90: the bus accesses of `RUN NOP` with one poll before the completion. -/
theorem test_run_notation :
    HostProgram.run .nop 1 = [.write 0x30 0x00, .read 0x31, .engine, .read 0x31] := by decide

/-! ## Witnesses: encoding -/

theorem witness_DecodeInvertsEncode : Instr.encrypt.wellFormed = true := by decide

theorem witness_OnlyTheEncodingDecodesToACommand : decode [0x0C, 0xFF] = .command .encrypt [0xFF] := by decide

theorem witness_ExactlyTheIllegalBytesAreRejected :
    0x0D ≤ (0x0D : Byte).toNat ∧ 0x0D ≤ (0xFF : Byte).toNat ∧ (0x0C : Byte).toNat < 0x0D ∧
      (0x00 : Byte).toNat < 0x0D := by decide

theorem witness_EngineStepRunsTheDecodedCommand :
    decodeTableWord 8 0x0C = some .encrypt ∧ Instr.encrypt.wellFormed = true := by decide

/-! ## Witnesses: host accesses -/

theorem witness_LegalCommandIsAcceptedOnlyWhenIdle :
    decode [0x0C] = .command .encrypt [] ∧ decode [0x00] = .command .nop [] := by decide

theorem witness_IllegalCommandSetsErrIll :
    0x0D ≤ (0x0D : Byte).toNat ∧ 0x0D ≤ (0xFF : Byte).toNat := by decide

theorem witness_BusyWriteIsDroppedWithErrBusy :
    (0x30 : Addr) ≠ 0x31 ∧ (0x32 : Addr) ≠ 0x31 ∧ (0x00 : Addr) ≠ 0x31 ∧ (0x3F : Addr) ≠ 0x31 := by decide

/-- Each clause has its own addresses: the ranges end at 0x1F, 0x2F, 0x37 and 0x3F. -/
theorem witness_IdleWriteReachesItsRegister :
    State.reset.pend = none ∧ decode [0x0C] = .command .encrypt [] ∧ 0x0D ≤ (0x0D : Byte).toNat ∧
      (BitVec.ofNat 6 31 : Addr) = 0x1F ∧ (BitVec.ofNat 6 (0x20 + 15) : Addr) = 0x2F ∧
      (BitVec.ofNat 6 (0x34 + 3) : Addr) = 0x37 ∧
      (∀ a ∈ [(0x33 : Addr), 0x39, 0x3A, 0x3B, 0x3F], a = 0x33 ∨ 0x39 ≤ a.toNat) ∧
      ∀ a ∈ [(0x00 : Addr), 0x1F, 0x20, 0x2F, 0x30, 0x31, 0x32, 0x34, 0x37, 0x38], ¬(a = 0x33 ∨ 0x39 ≤ a.toNat) := by
  decide

/-- The last clause starts at 0x3B, after the two read ports. -/
theorem witness_IdleReadReturnsItsRegister :
    State.reset.pend = none ∧ 0x3B ≤ (0x3B : Addr).toNat ∧ 0x3B ≤ (0x3F : Addr).toNat ∧
      ¬ 0x3B ≤ (0x3A : Addr).toNat := by decide

theorem witness_BusyReadShowsOnlyStatus :
    (0x30 : Addr) ≠ 0x31 ∧ (0x32 : Addr) ≠ 0x31 ∧ (0x39 : Addr) ≠ 0x31 := by decide

/-- A write at 0x38, the last address of the first clause, seen at 0x37; and the excluded port 0x39. -/
theorem witness_IdleWriteChangesOnlyItsByte :
    State.reset.pend = none ∧ (0x38 : Addr) ≠ 0x30 ∧ (0x38 : Addr) ≠ 0x31 ∧
      (∃ t, step { State.reset with inputs := .write 0x38 0x53 :: [] } = .next t) ∧
      (0x38 : Addr).toNat < 0x39 ∧ (0x38 : Addr) ≠ 0x33 ∧ (0x37 : Addr) ≠ 0x38 ∧
      ¬((0x38 : Addr) = 0x38 ∧ ((0x37 : Addr) = 0x39 ∨ (0x37 : Addr) = 0x3A)) :=
  ⟨rfl, by decide, by decide, ⟨_, rfl⟩, by decide, by decide, by decide, by decide⟩

/-- A read-only address: the second clause alone. -/
theorem witness_IdleWriteChangesOnlyItsByte_readOnly :
    State.reset.pend = none ∧ (0x39 : Addr) ≠ 0x30 ∧ (0x39 : Addr) ≠ 0x31 ∧
      (∃ t, step { State.reset with inputs := .write 0x39 0x53 :: [] } = .next t) ∧ (0x3A : Addr) ≠ 0x39 ∧
      ¬((0x39 : Addr) = 0x38 ∧ ((0x3A : Addr) = 0x39 ∨ (0x3A : Addr) = 0x3A)) :=
  ⟨rfl, by decide, by decide, ⟨_, rfl⟩, by decide, by decide⟩

theorem witness_SboxPortLooksUpTheLastByteWritten :
    State.reset.pend = none ∧ (pending .nop []).pend = some .nop := by decide

/-- Just past the window. -/
theorem witness_WindowOffsetIsRelativeToItsBase :
    (Config.windowBase + 64 < Config.windowBase ∨ Config.windowBase + 64 ≤ Config.windowBase + 64) :=
  .inr le_rfl

/-! ## Witnesses: commands -/

/-- XORRCON may write 0x34 alone: 0x35 is outside. KEYSTEP may write 0x1F and 0x32: 0x20 is outside. -/
theorem witness_CommandsWriteOnlyTheirOperands :
    (∃ t, exec .xorrcon (start zeroWord 0x08 0x00) = .next t) ∧ (0x35 : Addr) ≠ 0x31 ∧
      writesAddr .xorrcon 0x35 = false ∧ (∃ t, exec .keystep (start zeroWord 0x08 0x00) = .next t) ∧
      (0x20 : Addr) ≠ 0x31 ∧ writesAddr .keystep 0x20 = false :=
  ⟨⟨_, rfl⟩, by decide, by decide, ⟨_, rfl⟩, by decide, by decide⟩

theorem witness_EveryCommandCompletesAndClearsBusy : Instr.encrypt ≠ Instr.encStep := by decide

theorem witness_RconFollowsItsTable :
    0 / 8 = 0 ∧ 7 / 8 = 0 ∧ 72 / 8 ≥ 9 ∧ 255 / 8 ≥ 9 ∧ 8 / 8 = 1 ∧ 15 / 8 = 1 ∧ 16 / 8 = 2 ∧ 24 / 8 = 3 ∧ 32 / 8 = 4 ∧
      40 / 8 = 5 ∧ 48 / 8 = 6 ∧ 56 / 8 = 7 ∧ 63 / 8 = 7 ∧ 64 / 8 = 8 ∧ 71 / 8 = 8 := by decide

/-- Both ends of the range with a constant, and the indices next to it. -/
theorem witness_XorrconChangesOnlyTheFirstByte :
    (1 ≤ (start zeroWord 8 0).widx.toNat / 8 ∧ (start zeroWord 8 0).widx.toNat / 8 ≤ 8) ∧
      (1 ≤ (start zeroWord 71 0).widx.toNat / 8 ∧ (start zeroWord 71 0).widx.toNat / 8 ≤ 8) ∧
      ((start zeroWord 7 0).widx.toNat < 8 ∨ 72 ≤ (start zeroWord 7 0).widx.toNat) ∧
      ((start zeroWord 72 0).widx.toNat < 8 ∨ 72 ≤ (start zeroWord 72 0).widx.toNat) := by decide

theorem witness_NopOnlyClearsBusy : (0x30 : Addr) ≠ 0x31 ∧ (0x00 : Addr) ≠ 0x31 := by decide

theorem witness_WordCommandsRecomputeAGeneratorStep :
    (start #v[0x1C, 0x1D, 0x1E, 0x1F] 0x08 0x00).word = keyWord (start #v[0x1C, 0x1D, 0x1E, 0x1F] 0x08 0x00).key 7 ∧
      8 ≤ (start #v[0x1C, 0x1D, 0x1E, 0x1F] 0x08 0x00).widx.toNat ∧
      (start #v[0x1C, 0x1D, 0x1E, 0x1F] 0x08 0x00).widx.toNat % 8 = 0 := by decide

theorem witness_SboxIsInverseThenAffineMap : (0x00 : Byte) = 0 ∧ (0x01 : Byte) ≠ 0 ∧ (0xFF : Byte) ≠ 0 := by decide

/-- `x` and `y` of the first clause: the same byte, since it says `S` is injective. -/
theorem witness_SboxIsAPermutationWithoutFixedPoints : substitute 0xC7 = substitute 0xC7 := rfl

/-- Indices 7 (guard), 8, 12, 9 and 255, each with its own slots. -/
theorem witness_KeystepRunsOneGeneratorStep :
    (start zeroWord 7 0).widx.toNat < 8 ∧
      (8 ≤ (start zeroWord 8 0).widx.toNat ∧ (3 : Fin 8).val ≠ (start zeroWord 8 0).widx.toNat % 8 ∧
        (7 : Fin 8).val = ((start zeroWord 8 0).widx.toNat - 1) % 8 ∧
        (0 : Fin 8).val = (start zeroWord 8 0).widx.toNat % 8 ∧ (0 : Fin 8).val = 0) ∧
      (8 ≤ (start zeroWord 12 0).widx.toNat ∧ (3 : Fin 8).val = ((start zeroWord 12 0).widx.toNat - 1) % 8 ∧
        (4 : Fin 8).val = (start zeroWord 12 0).widx.toNat % 8 ∧ (4 : Fin 8).val = 4) ∧
      (8 ≤ (start zeroWord 9 0).widx.toNat ∧ (0 : Fin 8).val = ((start zeroWord 9 0).widx.toNat - 1) % 8 ∧
        (1 : Fin 8).val = (start zeroWord 9 0).widx.toNat % 8 ∧ (1 : Fin 8).val ≠ 0 ∧ (1 : Fin 8).val ≠ 4) ∧
      (8 ≤ (start zeroWord 255 0).widx.toNat ∧ (6 : Fin 8).val = ((start zeroWord 255 0).widx.toNat - 1) % 8 ∧
        (7 : Fin 8).val = (start zeroWord 255 0).widx.toNat % 8 ∧ (7 : Fin 8).val ≠ 0 ∧ (7 : Fin 8).val ≠ 4) := by
  decide

theorem witness_KeystepsProduceTheKeySchedule :
    (start zeroWord 0 0).widx.toNat ≤ 8 ∧ (start zeroWord 8 0).widx.toNat ≤ 8 ∧ 8 ≤ 8 ∧ 8 ≤ 255 ∧ 8 ≤ 1 + 7 ∧ 1 ≤ 8 ∧
      255 ≤ 255 ∧ 255 ≤ 248 + 7 ∧ 248 ≤ 255 := by decide

theorem witness_XtimeDoublesInTheField :
    (0x80 : Byte).getLsbD 7 = true ∧ (0xFF : Byte).getLsbD 7 = true ∧ (0x7F : Byte).getLsbD 7 = false := by decide

theorem witness_RotationsRestoreAndXorsCancel :
    ([.xorrcon, .xorrcon] : List Instr) = [.rotword, .rotword, .rotword, .rotword] ∨
      ([.xorrcon, .xorrcon] : List Instr) = [.shiftrows, .shiftrows, .shiftrows, .shiftrows] ∨
      ([.xorrcon, .xorrcon] : List Instr) = [.xorrcon, .xorrcon] ∨ ([.xorrcon, .xorrcon] : List Instr) = [.arkLo, .arkLo] ∨
      ([.xorrcon, .xorrcon] : List Instr) = [.arkHi, .arkHi] := by decide

/-- `ITER` at 0 and 60 outside; at 1 and 59 inside; at 8, 56 and 4 each phase with a round. -/
theorem witness_EncStepRunsOneIteration :
    ((start zeroWord 0 0).iter.toNat < 1 ∨ 59 < (start zeroWord 0 0).iter.toNat) ∧
      ((start zeroWord 0 60).iter.toNat < 1 ∨ 59 < (start zeroWord 0 60).iter.toNat) ∧
      (1 ≤ (start zeroWord 0 1).iter.toNat ∧ (start zeroWord 0 1).iter.toNat ≤ 59 ∧
        (start zeroWord 0 1).iter.toNat % 4 ≠ 0) ∧
      (1 ≤ (start zeroWord 0 59).iter.toNat ∧ (start zeroWord 0 59).iter.toNat ≤ 59 ∧
        (start zeroWord 0 59).iter.toNat % 4 ≠ 0) ∧
      (1 ≤ (start zeroWord 0 8).iter.toNat ∧ (start zeroWord 0 8).iter.toNat ≤ 59 ∧
        (start zeroWord 0 8).iter.toNat % 8 = 0 ∧ (start zeroWord 0 8).iter.toNat ≠ 56) ∧
      (1 ≤ (start zeroWord 0 56).iter.toNat ∧ (start zeroWord 0 56).iter.toNat ≤ 59 ∧
        (start zeroWord 0 56).iter.toNat = 56) ∧
      (1 ≤ (start zeroWord 0 4).iter.toNat ∧ (start zeroWord 0 4).iter.toNat ≤ 59 ∧
        ((start zeroWord 0 4).iter.toNat + 4) % 8 = 0) := by decide

theorem witness_EveryRoundUsesItsRoundKey : 1 ≤ 1 ∧ 1 ≤ 14 ∧ 1 ≤ 13 ∧ 1 ≤ 14 ∧ 14 ≤ 14 ∧ 14 = 14 ∧ 13 ≤ 13 := by decide

theorem witness_EncStepEqualsItsPrimitives :
    1 ≤ (start zeroWord 8 4).iter.toNat ∧ (start zeroWord 8 4).iter.toNat ≤ 59 ∧
      (start zeroWord 8 4).widx.toNat = (start zeroWord 8 4).iter.toNat + 4 := by decide

/-! ## Witnesses: the whole machine -/

/-- ENC_STEP at the edge of the range: 59 goes to 60. -/
theorem witness_StepKeepsIterAtMostSixty :
    State.Inv { pending .encStep [] with iter := 0x3B } ∧
      ∃ t, step { pending .encStep [] with iter := 0x3B } = .next t ∧ t.iter = 0x3C :=
  ⟨by decide, _, rfl, by decide +kernel⟩

theorem witness_OnlyDriverAndResetChangeIter :
    ∃ t, step (pending .encInit []) = .next t ∧ t.iter ≠ (pending .encInit []).iter :=
  ⟨_, rfl, by decide⟩

theorem witness_OnlyKeystepHostAndResetChangeWidx :
    ∃ t, step (idle [.write 0x32 0x08]) = .next t ∧ t.widx ≠ (idle [.write 0x32 0x08]).widx :=
  ⟨_, rfl, by decide⟩

theorem witness_ErrorFlagsAreSticky :
    ∃ t, step { pending .nop [] with errSeq := true } = .next t ∧
      State.flag { pending .nop [] with errSeq := true } .seq = true :=
  ⟨_, rfl, rfl⟩

/-- Each condition, raised. -/
theorem witness_FlagsRiseOnlyFromTheirCauses :
    (∃ t, step (idle [.write 0x30 0x0D]) = .next t ∧ (idle [.write 0x30 0x0D]).flag .ill = false ∧
      t.flag .ill = true) ∧
    (∃ t, step (pending .nop [.write 0x3F 0x00]) = .next t ∧ (pending .nop [.write 0x3F 0x00]).flag .busy = false ∧
      t.flag .busy = true) ∧
    ∃ t, step (pending .encStep []) = .next t ∧ (pending .encStep []).flag .seq = false ∧ t.flag .seq = true :=
  ⟨⟨_, rfl, by decide⟩, ⟨_, rfl, by decide⟩, _, rfl, by decide⟩

theorem witness_AStepRaisesAtMostOneFlag :
    ∃ t, step (pending .nop [.write 0x30 0x0D]) = .next t ∧ (pending .nop [.write 0x30 0x0D]).flag .busy = false ∧
      t.flag .busy = true ∧ (pending .nop [.write 0x30 0x0D]).flag .busy = false ∧ t.flag .busy = true :=
  ⟨_, rfl, by decide⟩

theorem witness_OperandsStayFixedWhileBusy :
    ∃ t, step (pending .encrypt [.write 0x00 0xAA]) = .next t ∧
      (pending .encrypt [.write 0x00 0xAA]).pend = some .encrypt ∧ t.pend ≠ none :=
  ⟨_, rfl, by decide⟩

/-- `BUSY` rises by an acceptance; it falls by a completion and by a reset. -/
theorem witness_BusyRisesByAcceptanceAndFallsByCompletion :
    (∃ t, step (idle [.write 0x30 0x0C]) = .next t ∧ (idle [.write 0x30 0x0C]).pend = none ∧ t.pend = some .encrypt) ∧
    (∃ t, step (pending .nop [.engine]) = .next t ∧ (pending .nop [.engine]).pend = some .nop ∧ t.pend = none) ∧
    ∃ t, step (pending .nop [.reset]) = .next t ∧ (pending .nop [.reset]).pend = some .nop ∧ t.pend = none :=
  ⟨⟨_, rfl, by decide⟩, ⟨_, rfl, by decide⟩, _, rfl, by decide⟩

/-- Two states that differ in every secret and agree on the control part. -/
theorem witness_ControlDoesNotDependOnSecrets :
    (pending .keystep []).control = State.control { pending .keystep [] with key := keyRamp, state := s0, reads := [0x01] } ∧
      (∃ t, step (pending .keystep []) = .next t) ∧
      ∃ t, step { pending .keystep [] with key := keyRamp, state := s0, reads := [0x01] } = .next t :=
  ⟨rfl, ⟨_, rfl⟩, _, rfl⟩

/-- A pending command: step 0 is not the end of the run, and step 1 is. -/
theorem witness_EveryRunEnds :
    Host.Core.run Sys2Proof.core 0 (pending .nop [.reset]) = .next (pending .nop [.reset]) ∧
      ¬ (pending .nop [.reset]).ended ∧
      ∃ t : State, Host.Core.run Sys2Proof.core 1 (pending .nop [.reset]) = .next t ∧ t.ended :=
  ⟨rfl, by decide, _, rfl, by decide⟩

/-- 70_reset_and_hazards.md R263: a turn of the engine and a reset are no bus accesses; an access left, or a command
pending, is not the end. -/
theorem test_ended :
    (idle [.engine, .reset]).ended ∧ (idle []).ended ∧ ¬ (idle [.engine, .read 0x31]).ended ∧
      ¬ (pending .nop []).ended := by decide

/-- Nothing left but a turn of the engine; and nothing left but a reset, on a state that is not the reset state. -/
theorem witness_EndedRunStaysEnded :
    ((idle [.engine]).ended ∧ (∃ t, step (idle [.engine]) = .next t) ∧
      (idle [.engine]).inputs.head? ≠ some .reset) ∧
    State.ended { idle [.reset] with iter := 0x3C } ∧ ∃ t, step { idle [.reset] with iter := 0x3C } = .next t :=
  ⟨⟨by decide, ⟨_, rfl⟩, by decide⟩, by decide, _, rfl⟩

end Sys2Proof.Tests
end

section
/-! PROOFS. The engine's transforms against those of the reference cipher (41_substitution.md R101,
43_key_schedule.md R145, 44_state_transforms.md R160 to R164). -/

namespace Sys2Proof.Machine

/-- The stored XOR-delta table and the S-box table agree byte by byte (41_substitution.md R101). -/
theorem substitute_eq_sbox : ∀ x : Byte, substitute x = Reference.sbox x := by decide

theorem subWord_eq_reference (w : Word) : subWord w = Reference.subWord w := by
  simp [subWord, Reference.subWord, substitute_eq_sbox]

theorem scratchTransform_eq_scheduleTransform (j : Nat) (w : Word) :
    scratchTransform j w = Reference.scheduleTransform j w := by
  simp only [scratchTransform, Reference.scheduleTransform, subWord_eq_reference]

theorem subBytes_eq_reference (s : Block) : subBytes s = Reference.subBytes s := by
  simp [subBytes, Reference.subBytes, substitute_eq_sbox]

/-- Rotating row `k mod 4` reads the byte that the table `src` names (44_state_transforms.md R161). -/
theorem shiftSource_eq_rotatedCell : ∀ k : Fin 16,
    (Reference.shiftSource[k]).val = k.val % 4 + 4 * ((k.val / 4 + k.val % 4) % 4) := by decide

theorem shiftRows_eq_reference (s : Block) : shiftRows s = Reference.shiftRows s := by
  ext k hk
  have hsrc : (Reference.shiftSource[k]).val = k % 4 + 4 * ((k / 4 + k % 4) % 4) :=
    shiftSource_eq_rotatedCell ⟨k, hk⟩
  rw [getElem_eq_cell _ k hk, cell_shiftRows]
  simp [cell, Reference.shiftRows, Fin.val_add, hsrc]

/-- Multiplication by 2 in the field is `xtime` (44_state_transforms.md R162). -/
theorem gfMul_two : ∀ b : Byte, Reference.gfMul 2 b = xtime b := by decide

theorem gfMul_three : ∀ b : Byte, Reference.gfMul 3 b = xtime b ^^^ b := by decide

/-- Doubling is linear: what makes the shared-XOR form of MixColumns a matrix product. -/
theorem xtime_xor (a b : Byte) : xtime (a ^^^ b) = xtime a ^^^ xtime b := by
  simp only [xtime, BitVec.getLsbD_xor, BitVec.shiftLeft_xor_distrib]
  cases a.getLsbD 7 <;> cases b.getLsbD 7
  case false.false => rfl
  case false.true => exact BitVec.xor_assoc ..
  case true.false =>
    show a <<< 1 ^^^ b <<< 1 ^^^ 0x1B = a <<< 1 ^^^ 0x1B ^^^ b <<< 1
    ac_rfl
  case true.true =>
    show a <<< 1 ^^^ b <<< 1 = (a <<< 1 ^^^ 0x1B) ^^^ (b <<< 1 ^^^ 0x1B)
    calc a <<< 1 ^^^ b <<< 1
        = (a <<< 1 ^^^ b <<< 1) ^^^ (0x1B ^^^ 0x1B) := by rw [BitVec.xor_self, BitVec.xor_zero]
      _ = (a <<< 1 ^^^ 0x1B) ^^^ (b <<< 1 ^^^ 0x1B) := by ac_rfl

/-- The XOR of a column may start at any row. -/
theorem columnXor_eq_from (s : Block) (j c : Fin 4) :
    columnXor s c = cell s j c ^^^ cell s (j + 1) c ^^^ cell s (j + 2) c ^^^ cell s (j + 3) c := by
  unfold columnXor
  fin_cases j
  · rfl
  · show _ = cell s 1 c ^^^ cell s 2 c ^^^ cell s 3 c ^^^ cell s 0 c
    ac_rfl
  · show _ = cell s 2 c ^^^ cell s 3 c ^^^ cell s 0 c ^^^ cell s 1 c
    ac_rfl
  · show _ = cell s 3 c ^^^ cell s 0 c ^^^ cell s 1 c ^^^ cell s 2 c
    ac_rfl

/-- One byte of a mixed column: the byte's own occurrence in the shared XOR cancels (44_state_transforms.md R164). -/
theorem mixedByte_eq (a b c d : Byte) :
    a ^^^ xtime (a ^^^ b) ^^^ (a ^^^ b ^^^ c ^^^ d) = Reference.gfMul 2 a ^^^ Reference.gfMul 3 b ^^^ c ^^^ d := by
  rw [gfMul_two, gfMul_three, xtime_xor]
  calc a ^^^ (xtime a ^^^ xtime b) ^^^ (a ^^^ b ^^^ c ^^^ d)
      = (a ^^^ a) ^^^ (xtime a ^^^ (xtime b ^^^ b) ^^^ c ^^^ d) := by ac_rfl
    _ = xtime a ^^^ (xtime b ^^^ b) ^^^ c ^^^ d := by rw [BitVec.xor_self, BitVec.zero_xor]

theorem mixColumns_eq_reference (s : Block) : mixColumns s = Reference.mixColumns s := by
  refine block_ext_cell fun j c => ?_
  rw [cell_mixColumns, columnXor_eq_from s j c, mixedByte_eq, Reference.mixColumns, cell_ofCells]

end Sys2Proof.Machine
end

section
/-! PROOFS. The key schedule in place: `KEY` as a sliding window over the schedule words (43_key_schedule.md R144,
45_orchestrator.md R195). -/

namespace Sys2Proof.Machine

/-- `buf` holds the last eight schedule words up to `w_n`, word `m` in slot `m mod 8` (43_key_schedule.md R144). -/
def HoldsSchedule (key : KeyBuffer) (n : Nat) (buf : KeyBuffer) : Prop :=
  ∀ m, m ≤ n → n < m + 8 → keyWord buf (slot m) = Reference.scheduleWord key m

theorem holdsSchedule_self (key : KeyBuffer) : HoldsSchedule key 7 key := by
  intro m hm _
  have hslot : slot m = ⟨m, by omega⟩ := Fin.ext (Nat.mod_eq_of_lt (by omega))
  rw [hslot, Reference.scheduleWord_of_lt key (by omega)]

/-- `KeyGen(n + 1)` slides the window by one word: the sink word was `w_{n-7}` and the source word is `w_n`. -/
theorem HoldsSchedule.keyGen_succ {key buf : KeyBuffer} {n : Nat} (hn : 7 ≤ n) (h : HoldsSchedule key n buf) :
    HoldsSchedule key (n + 1) (keyGen (n + 1) buf) := by
  intro m hm hm'
  by_cases hnew : m = n + 1
  · subst hnew
    have hslot : slot (n + 1) = slot (n + 1 - 8) := Fin.ext (by simp only [slot_val]; omega)
    have hsink : keyWord buf (slot (n + 1)) = Reference.scheduleWord key (n + 1 - 8) := by
      rw [hslot]; exact h _ (by omega) (by omega)
    have hsource : keyWord buf (slot (n + 1 - 1)) = Reference.scheduleWord key (n + 1 - 1) := h _ (by omega) (by omega)
    rw [keyWord_keyGen_sink (by omega), hsink, hsource, scratchTransform_eq_scheduleTransform,
      ← Reference.scheduleWord_of_le key (by omega)]
  · have hother : slot m ≠ slot (n + 1) := fun e => by
      have := congrArg Fin.val e
      simp only [slot_val] at this
      omega
    rw [keyWord_keyGen_other hother, h m (by omega) (by omega)]

/-- The generator from any index on: below 8 it does nothing, and the window stays at the key itself. -/
theorem HoldsSchedule.keyGen_max {key buf : KeyBuffer} {n : Nat} (h : HoldsSchedule key (max 7 n) buf) :
    HoldsSchedule key (max 7 (n + 1)) (keyGen (n + 1) buf) := by
  by_cases hn : 7 ≤ n
  · rw [max_eq_right hn] at h
    rw [max_eq_right (by omega)]
    exact h.keyGen_succ hn
  · rw [max_eq_left (by omega)] at h ⊢
    rwa [keyGen_of_lt (by omega)]

/-- The half of `KEY` that round `r` reads (45_orchestrator.md R194). -/
def roundHalf (r : Nat) : Half := if r % 2 = 0 then .lo else .hi

/-- Byte `k` of a round's half lies in the slot of schedule word `4r + k div 4`. -/
theorem getElem_keyHalf_roundHalf (buf : KeyBuffer) (r k : Nat) (hk : k < 16) :
    (keyHalf buf (roundHalf r))[k] = (keyWord buf (slot (4 * r + k / 4)))[k % 4]'(by omega) := by
  unfold roundHalf
  split
  · have hidx : 4 * ((4 * r + k / 4) % 8) + k % 4 = k := by omega
    simp [hidx]
  · have hidx : 4 * ((4 * r + k / 4) % 8) + k % 4 = 16 + k := by omega
    simp [hidx]

/-- While the four words of round key `r` are in the window, its half of `KEY` is that round key. -/
theorem HoldsSchedule.keyHalf_eq {key buf : KeyBuffer} {n r : Nat} (h : HoldsSchedule key n buf)
    (hlast : 4 * r + 3 ≤ n) (hfirst : n < 4 * r + 8) :
    keyHalf buf (roundHalf r) = Reference.roundKey key r := by
  ext k hk
  rw [getElem_keyHalf_roundHalf buf r k hk, h _ (by omega) (by omega)]
  simp [Reference.roundKey]

end Sys2Proof.Machine
end

section
/-! PROOFS. The encryption driver against the reference cipher (45_orchestrator.md R191 to R198). -/

namespace Sys2Proof.Machine

/-- The block after rounds 0 to `r` of the cipher; from round 14 on, the ciphertext (45_orchestrator.md R194). -/
def blockAfterRounds (key : KeyBuffer) (block : Block) (r : Nat) : Block :=
  if r < 14 then Reference.mixedRounds key (xorBytes block (Reference.roundKey key 0)) r
  else Reference.aes256 key block

theorem blockAfterRounds_zero (key : KeyBuffer) (block : Block) :
    blockAfterRounds key block 0 = xorBytes block (Reference.roundKey key 0) := rfl

theorem blockAfterRounds_of_lt {r : Nat} (hr : r < 14) (key : KeyBuffer) (block : Block) :
    blockAfterRounds key block r =
      Reference.mixedRounds key (xorBytes block (Reference.roundKey key 0)) r :=
  if_pos hr

theorem blockAfterRounds_last (key : KeyBuffer) (block : Block) :
    blockAfterRounds key block 14 = Reference.aes256 key block := rfl

/-- A round of the engine with round key `r + 1` in its half is round `r + 1` of the cipher. -/
theorem cipherRound_blockAfterRounds {key buf : KeyBuffer} {block : Block} {r : Nat} (hr : r < 14)
    (hkey : keyHalf buf (roundHalf (r + 1)) = Reference.roundKey key (r + 1)) :
    cipherRound (blockAfterRounds key block r) buf (roundHalf (r + 1)) (!(r + 1 == 14)) =
      blockAfterRounds key block (r + 1) := by
  unfold cipherRound addRoundKey
  rw [hkey, mixColumns_eq_reference, shiftRows_eq_reference, subBytes_eq_reference, blockAfterRounds_of_lt hr]
  by_cases hlast : r = 13
  · subst hlast
    rw [blockAfterRounds_last]
    rfl
  · have hmix : (!(r + 1 == 14)) = true := by simpa using hlast
    rw [hmix, if_pos rfl, blockAfterRounds_of_lt (by omega), Reference.mixedRounds]

/-- Iteration `4r` performs round `r` (45_orchestrator.md R194). -/
theorem iterationRound_of_four_mul (r : Nat) (key : KeyBuffer) (s : Block) :
    iterationRound (4 * r) key s = cipherRound s key (roundHalf r) (!(r == 14)) := by
  have hfinal : finalIteration (4 * r) = (r == 14) := by
    unfold finalIteration; rw [Bool.eq_iff_iff]; simp; omega
  unfold iterationRound phase roundHalf
  by_cases heven : r % 2 = 0
  · rw [if_pos (by omega), if_pos heven, hfinal]
  · have hne : (r == 14) = false := by simp; omega
    rw [if_neg (by omega), if_pos (by omega), if_neg heven, hne]
    rfl

/-- Every other iteration only expands the schedule (45_orchestrator.md R190). -/
theorem iterationRound_of_not_four_dvd {i : Nat} (h : i % 4 ≠ 0) (key : KeyBuffer) (s : Block) :
    iterationRound i key s = s := by
  unfold iterationRound phase
  rw [if_neg (by omega), if_neg (by omega)]

/-- Iteration `n + 1` takes the block on to the rounds due by then, given the window after its generator step. -/
theorem iterationRound_blockAfterRounds {key buf : KeyBuffer} {block : Block} {n : Nat} (hn : n < 59)
    (hkey : HoldsSchedule key (max 7 (n + 1 + 4)) buf) :
    iterationRound (n + 1) buf (blockAfterRounds key block (n / 4)) = blockAfterRounds key block ((n + 1) / 4) := by
  by_cases hround : (n + 1) % 4 = 0
  · obtain ⟨r, hr⟩ : ∃ r, n + 1 = 4 * (r + 1) := ⟨n / 4, by omega⟩
    have hbefore : n / 4 = r := by omega
    have hafter : (n + 1) / 4 = r + 1 := by omega
    have hroundKey : keyHalf buf (roundHalf (r + 1)) = Reference.roundKey key (r + 1) :=
      hkey.keyHalf_eq (by omega) (by omega)
    rw [hbefore, hafter, hr, iterationRound_of_four_mul, cipherRound_blockAfterRounds (by omega) hroundKey]
  · have hsame : (n + 1) / 4 = n / 4 := by omega
    rw [iterationRound_of_not_four_dvd hround, hsame]

/-- The driver started on `s` stands after `n` of its iterations at `t`. -/
structure DriverProgress (s : State) (n : Nat) (t : State) : Prop where
  iter : t.iter = BitVec.ofNat 8 (n + 1)
  key : HoldsSchedule s.key (max 7 (n + 4)) t.key
  state : t.state = blockAfterRounds s.key s.state (n / 4)

theorem driverProgress_encInitBody (s : State) : DriverProgress s 0 s.encInitBody where
  iter := rfl
  key := holdsSchedule_self s.key
  state := by
    have hkey : keyHalf s.key .lo = Reference.roundKey s.key 0 :=
      (holdsSchedule_self s.key).keyHalf_eq (r := 0) (by omega) (by omega)
    rw [State.encInitBody_state, addRoundKey, hkey, Nat.zero_div, blockAfterRounds_zero]

theorem DriverProgress.encStepBody {s t : State} {n : Nat} (h : DriverProgress s n t) (hn : n < 59) :
    DriverProgress s (n + 1) t.encStepBody := by
  obtain ⟨hiter, hkey, hstate⟩ := h
  have hi : t.iter.toNat = n + 1 := by rw [hiter, BitVec.toNat_ofNat]; omega
  have hkey' : HoldsSchedule s.key (max 7 (n + 1 + 4)) (keyGen (n + 1 + 4) t.key) := hkey.keyGen_max
  rw [State.encStepBody_of_inRange (by omega) (by omega)]
  refine ⟨?_, ?_, ?_⟩
  · rw [State.iterate_iter, hiter, BitVec.ofNat_add (n + 1) 1]
    rfl
  · rwa [State.iterate_key, hi]
  · rw [State.iterate_state, hi, hstate]
    exact iterationRound_blockAfterRounds hn hkey'

theorem driverProgress_encSteps (s : State) :
    ∀ n, n ≤ 59 → DriverProgress s n (State.encSteps n s.encInitBody)
  | 0, _ => driverProgress_encInitBody s
  | n + 1, hn => by
    rw [State.encSteps_succ]
    exact (driverProgress_encSteps s n (by omega)).encStepBody (by omega)

/-- The body of ENC_STEP does not look at `PEND`. -/
theorem State.encStepBody_retire (s : State) : s.retire.encStepBody = s.encStepBody.retire := by
  unfold State.encStepBody
  rw [State.retire_iter]
  split <;> rfl

/-- `n` ENC_STEPs as single commands are `n` ENC_STEP bodies and one retirement. -/
theorem runCommands_encSteps (n : Nat) (s : State) :
    runCommands (List.replicate n .encStep) s.retire = .next (State.encSteps n s).retire := by
  induction n generalizing s with
  | zero => rfl
  | succ n ih =>
    rw [List.replicate_succ, runCommands, exec_eq_effect]
    show runCommands _ (s.retire.encStepBody).retire = _
    rw [State.encStepBody_retire]
    exact ih s.encStepBody

theorem runCommands_encInit_encSteps (n : Nat) (s : State) :
    runCommands (.encInit :: List.replicate n .encStep) s = .next (State.encSteps n s.encInitBody).retire := by
  rw [runCommands, exec_eq_effect]
  exact runCommands_encSteps n s.encInitBody

theorem exec_encrypt (s : State) : exec .encrypt s = .next (State.encSteps 59 s.encInitBody).retire := by
  rw [exec_eq_effect, effect, loopLast]

/-- Settles O44: the driver's progress after all 59 iterations, where round 14 is done and the window ends at `w_63`. -/
theorem encryptComputesAes256 : Obligations.EncryptComputesAes256 := by
  intro s
  obtain ⟨hiter, hkey, hstate⟩ := driverProgress_encSteps s 59 (by omega)
  refine ⟨_, exec_encrypt s, runCommands_encInit_encSteps 59 s, ?_, fun w => ?_, ?_⟩
  · rw [State.retire_state, hstate]
    exact blockAfterRounds_last s.key s.state
  · have hslot : slot (56 + w.val) = w := Fin.ext (by simp only [slot_val]; omega)
    rw [State.retire_key, ← hkey (56 + w.val) (by omega) (by omega), hslot]
  · rw [State.retire_iter, hiter]
    rfl

end Sys2Proof.Machine
end

section
/-! PROOFS. What a step does to `ITER`, `WIDX`, `PEND` and `STATUS` (10_state.md R20, R27, R28, R30 to R35, R40, R45):
one lemma per register for a completion, for a host write and for a step. -/

namespace Sys2Proof.Machine

/-! ## The register map -/

/-- A register that is not reserved stands at one address only. -/
theorem decodeAddr_eq_iff {a b : Addr} (hb : decodeAddr b ≠ .reserved) : decodeAddr a = decodeAddr b ↔ a = b :=
  ⟨fun h => (decodeAddr_inj h.symm hb).symm, congrArg decodeAddr⟩

theorem decodeAddr_eq_cmd_iff (a : Addr) : decodeAddr a = .cmd ↔ a = 0x30 :=
  decodeAddr_eq_iff (b := 0x30) (by decide)

theorem decodeAddr_eq_widx_iff (a : Addr) : decodeAddr a = .widx ↔ a = 0x32 :=
  decodeAddr_eq_iff (b := 0x32) (by decide)

theorem decodeAddr_eq_sboxOut_iff (a : Addr) : decodeAddr a = .sboxOut ↔ a = 0x39 :=
  decodeAddr_eq_iff (b := 0x39) (by decide)

theorem decodeAddr_eq_sboxDelta_iff (a : Addr) : decodeAddr a = .sboxDelta ↔ a = 0x3A :=
  decodeAddr_eq_iff (b := 0x3A) (by decide)

/-! ## Host writes -/

theorem decode_of_commandOf {v : Byte} {i : Instr} (h : commandOf v = some i) (rest : List Byte) :
    decode (v :: rest) = .command i rest := by
  simp [decode, h]

/-- A host write is dropped with `ERR_BUSY`, acknowledges error flags, or is performed on an idle engine. -/
theorem State.memWrite_cases (s : State) (a : Addr) (v : Byte) :
    (s.pend ≠ none ∧ s.memWrite a v = s.raiseErr .busy) ∨ s.memWrite a v = s.acknowledge v ∨
      (s.pend = none ∧ s.memWrite a v = s.writeReg v (decodeAddr a)) := by
  by_cases ha : a = 0x31
  · subst ha
    exact .inr (.inl (s.memWrite_status v))
  · cases hp : s.pend with
    | none => exact .inr (.inr ⟨rfl, memWrite_of_idle hp a v⟩)
    | some i => exact .inl ⟨nofun, memWrite_of_busy hp ha v⟩

/-- A command write sets no register. -/
theorem State.command_widx (s : State) (v : Byte) : (s.command v).widx = s.widx := by
  rcases s.command_cases v with ⟨i, -, h⟩ | ⟨-, h⟩ <;> simp [h]

theorem State.writeReg_widx (s : State) (v : Byte) {r : WindowReg} (h : r ≠ .widx) :
    (s.writeReg v r).widx = s.widx := by
  cases r with
  | widx => exact absurd rfl h
  | cmd => exact s.command_widx v
  | _ => rfl

theorem State.writeReg_pend (s : State) (v : Byte) {r : WindowReg} (h : r ≠ .cmd) :
    (s.writeReg v r).pend = s.pend := by
  cases r with
  | cmd => exact absurd rfl h
  | _ => rfl

/-- The host moves `WIDX` only by an idle write to 0x32 (10_state.md R28). -/
theorem State.memWrite_widx (s : State) (a : Addr) (v : Byte) :
    (s.memWrite a v).widx = s.widx ∨ (s.pend = none ∧ a = 0x32 ∧ (s.memWrite a v).widx = v) := by
  rcases s.memWrite_cases a v with ⟨-, h⟩ | h | ⟨hidle, h⟩ <;> rw [h]
  · exact .inl (s.raiseErr_widx .busy)
  · exact .inl (s.acknowledge_widx v)
  · by_cases hr : decodeAddr a = .widx
    · exact .inr ⟨hidle, (decodeAddr_eq_widx_iff a).1 hr, by rw [hr]; rfl⟩
    · exact .inl (s.writeReg_widx v hr)

/-- The host moves `PEND` only by an acceptance: an idle write of a legal byte to `CMD` (30_encoding.md R84). -/
theorem State.memWrite_pend (s : State) (a : Addr) (v : Byte) :
    (s.memWrite a v).pend = s.pend ∨
      (s.pend = none ∧ a = 0x30 ∧ ∃ i, commandOf v = some i ∧ (s.memWrite a v).pend = some i) := by
  rcases s.memWrite_cases a v with ⟨-, h⟩ | h | ⟨hidle, h⟩ <;> rw [h]
  · exact .inl (s.raiseErr_pend .busy)
  · exact .inl (s.acknowledge_pend v)
  · by_cases hr : decodeAddr a = .cmd
    · have hcmd : s.writeReg v (decodeAddr a) = s.command v := by rw [hr]; rfl
      rw [hcmd]
      rcases s.command_cases v with ⟨i, hi, hc⟩ | ⟨-, hc⟩ <;> rw [hc]
      · exact .inr ⟨hidle, (decodeAddr_eq_cmd_iff a).1 hr, i, hi, s.accept_pend i⟩
      · exact .inl (s.raiseErr_pend .ill)
    · exact .inl (s.writeReg_pend v hr)

/-! ## Completions -/

/-- An ENC_STEP body raises `ERR_SEQ`, or is one iteration, from `ITER` at most 59 (45_orchestrator.md R192). -/
theorem State.encStepBody_cases (s : State) :
    s.encStepBody = s.raiseErr .seq ∨ (s.encStepBody = s.iterate ∧ s.iter.toNat ≤ 59) := by
  by_cases h : s.iter.toNat < 1 ∨ 59 < s.iter.toNat
  · exact .inl (encStepBody_of_outOfRange h)
  · exact .inr ⟨encStepBody_of_inRange (by omega) (by omega), by omega⟩

theorem State.encStepBody_iter (s : State) :
    s.encStepBody.iter = s.iter ∨ (s.encStepBody.iter = s.iter + 1 ∧ s.iter.toNat ≤ 59) := by
  rcases s.encStepBody_cases with h | ⟨h, hle⟩ <;> rw [h]
  · exact .inl (s.raiseErr_iter .seq)
  · exact .inr ⟨s.iterate_iter, hle⟩

theorem State.encStepBody_widx (s : State) : s.encStepBody.widx = s.widx := by
  rcases s.encStepBody_cases with h | ⟨h, -⟩ <;> rw [h]
  · exact s.raiseErr_widx .seq
  · exact s.iterate_widx

/-- ENCRYPT ends with `ITER` = 60, whatever it was, and writes no register but `KEY` and `STATE` besides
(45_orchestrator.md R193). -/
theorem effect_encrypt_frame (s : State) :
    ∃ (key : KeyBuffer) (b : Block), effect .encrypt s = { s with key := key, state := b, iter := 60 } := by
  obtain ⟨key, b, h⟩ := State.encSteps_frame s.encInitBody rfl 59 le_rfl
  exact ⟨key, b, by simp [effect, loopLast, h]⟩

/-- Only the three driver commands move `ITER` (10_state.md R27). -/
theorem effect_iter (i : Instr) (s : State) :
    (effect i s).iter = s.iter ∨ (i = .encInit ∧ (effect i s).iter = 1) ∨
      (i = .encStep ∧ (effect i s).iter = s.iter + 1 ∧ s.iter.toNat ≤ 59) ∨
      (i = .encrypt ∧ (effect i s).iter = 60) := by
  cases i with
  | encInit => exact .inr (.inl ⟨rfl, rfl⟩)
  | encStep => exact s.encStepBody_iter.imp_right fun h => .inr (.inl ⟨rfl, h⟩)
  | encrypt =>
    obtain ⟨key, b, h⟩ := effect_encrypt_frame s
    exact .inr (.inr (.inr ⟨rfl, by rw [h]⟩))
  | _ => exact .inl (by dsimp only [effect])

/-- Of the commands KEYSTEP alone moves `WIDX` (10_state.md R28). -/
theorem effect_widx (i : Instr) (s : State) :
    (effect i s).widx = s.widx ∨ (i = .keystep ∧ (effect i s).widx = s.widx + 1) := by
  cases i with
  | keystep => exact .inr ⟨rfl, rfl⟩
  | encStep => exact .inl s.encStepBody_widx
  | encrypt =>
    obtain ⟨key, b, h⟩ := effect_encrypt_frame s
    exact .inl (by rw [h])
  | encInit => exact .inl s.encInitBody_widx
  | _ => exact .inl (by dsimp only [effect])

/-! ## Steps -/

/-- A step has one next state. -/
theorem eq_of_step_eq {s t u : State} (ht : step s = .next t) (hu : step s = .next u) : t = u :=
  Host.Outcome.next.inj (ht.symm.trans hu)

/-- What a step can do to `ITER`, with the range in which ENC_STEP advances it (10_state.md R27). -/
theorem step_iter {s t : State} (h : step s = .next t) :
    t.iter = s.iter ∨ (t.iter = 1 ∧ s.pend = some .encInit) ∨
      (t.iter = s.iter + 1 ∧ s.iter.toNat ≤ 59 ∧ s.pend = some .encStep) ∨
      (t.iter = 60 ∧ s.pend = some .encrypt) ∨ (t.iter = 0 ∧ s.inputs.head? = some .reset) := by
  rcases step_cases s with ⟨i, hp, -, e⟩ | ⟨-, -, e⟩ | ⟨a, -, e⟩ | ⟨a, v, -, e⟩ | ⟨hreset, e⟩ <;>
    obtain rfl := eq_of_step_eq h e
  · rw [State.retire_iter]
    rcases effect_iter i { s with inputs := s.inputs.tail } with hi | ⟨rfl, hi⟩ | ⟨rfl, hi, hle⟩ | ⟨rfl, hi⟩
    · exact .inl hi
    · exact .inr (.inl ⟨hi, hp⟩)
    · exact .inr (.inr (.inl ⟨hi, hle, hp⟩))
    · exact .inr (.inr (.inr (.inl ⟨hi, hp⟩)))
  · exact .inl rfl
  · exact .inl rfl
  · exact .inl (State.memWrite_keeps _ a v).1
  · exact .inr (.inr (.inr (.inr ⟨rfl, hreset⟩)))

/-- Settles O47: `ITER` advances by one only from at most 59, and every other value it takes is 0, 1 or 60. -/
theorem stepKeepsIterAtMostSixty : Obligations.StepKeepsIterAtMostSixty := by
  intro s t hs h
  show t.iter.toNat ≤ 60
  rcases step_iter h with hi | ⟨hi, -⟩ | ⟨hi, hle, -⟩ | ⟨hi, -⟩ | ⟨hi, -⟩ <;> rw [hi]
  · exact hs
  · decide
  · have hsucc : (s.iter + 1).toNat = s.iter.toNat + 1 := by
      have hone : (1 : Byte).toNat = 1 := rfl
      rw [BitVec.toNat_add, hone]
      omega
    omega
  · decide
  · decide

/-- Settles O49: the cases of `step_iter`, of which only the first leaves `ITER` alone. -/
theorem onlyDriverAndResetChangeIter : Obligations.OnlyDriverAndResetChangeIter := by
  intro s t h hne
  rcases step_iter h with hi | hinit | ⟨hi, -, hp⟩ | hencrypt | hreset
  · exact absurd hi hne
  · exact .inl hinit
  · exact .inr (.inl ⟨hi, hp⟩)
  · exact .inr (.inr (.inl hencrypt))
  · exact .inr (.inr (.inr hreset))

/-- Settles O50: over the events of a step, by what a completion and a host write do to `WIDX`. -/
theorem onlyKeystepHostAndResetChangeWidx : Obligations.OnlyKeystepHostAndResetChangeWidx := by
  intro s t h hne
  rcases step_cases s with ⟨i, hp, -, e⟩ | ⟨-, -, e⟩ | ⟨a, -, e⟩ | ⟨a, v, hwrite, e⟩ | ⟨hreset, e⟩ <;>
    obtain rfl := eq_of_step_eq h e
  · rcases effect_widx i { s with inputs := s.inputs.tail } with hw | ⟨rfl, hw⟩
    · exact absurd hw hne
    · exact .inl ⟨hw, hp⟩
  · exact absurd rfl hne
  · exact absurd rfl hne
  · rcases State.memWrite_widx { s with inputs := s.inputs.tail } a v with hw | ⟨hidle, rfl, hw⟩
    · exact absurd hw hne
    · exact .inr (.inl ⟨hidle, by rw [hw]; exact hwrite⟩)
  · exact .inr (.inr ⟨rfl, hreset⟩)

/-- What a step can do to `PEND`: a completion or a reset empties it, an acceptance fills it (10_state.md R30, R40). -/
theorem step_pend {s t : State} (h : step s = .next t) :
    t.pend = s.pend ∨
      (∃ i, s.pend = some i ∧ t.pend = none ∧ (s.inputs = [] ∨ s.inputs.head? = some .engine) ∧
        exec i { s with inputs := s.inputs.tail } = .next t) ∨
      (∃ i v, s.pend = none ∧ t.pend = some i ∧ s.inputs.head? = some (.write 0x30 v) ∧ commandOf v = some i) ∨
      (t.pend = none ∧ s.inputs.head? = some .reset) := by
  rcases step_cases s with ⟨i, hp, hturn, e⟩ | ⟨-, -, e⟩ | ⟨a, -, e⟩ | ⟨a, v, hwrite, e⟩ | ⟨hreset, e⟩ <;>
    obtain rfl := eq_of_step_eq h e
  · exact .inr (.inl ⟨i, hp, rfl, hturn, exec_eq_effect i _⟩)
  · exact .inl rfl
  · exact .inl rfl
  · rcases State.memWrite_pend { s with inputs := s.inputs.tail } a v with hp | ⟨hidle, rfl, i, hi, hp⟩
    · exact .inl hp
    · exact .inr (.inr (.inl ⟨i, v, hidle, hp, hwrite, hi⟩))
  · exact .inr (.inr (.inr ⟨rfl, hreset⟩))

/-- Settles O55: of the cases of `step_pend` only an acceptance fills `PEND`, and only a completion or a reset empties
it. -/
theorem busyRisesByAcceptanceAndFallsByCompletion : Obligations.BusyRisesByAcceptanceAndFallsByCompletion := by
  intro s t h
  refine ⟨fun i hs ht => ?_, fun i hs ht => ?_⟩
  · rcases step_pend h with hsame | ⟨j, hj, -⟩ | ⟨j, v, -, hj, hwrite, hv⟩ | ⟨hnone, -⟩
    · simp [hs, ht] at hsame
    · simp [hs] at hj
    · obtain rfl : i = j := Option.some.inj (ht.symm.trans hj)
      exact ⟨v, hwrite, decode_of_commandOf hv []⟩
    · simp [ht] at hnone
  · rcases step_pend h with hsame | ⟨j, hj, -, hturn, hexec⟩ | ⟨j, v, hidle, -⟩ | ⟨-, hreset⟩
    · simp [hs, ht] at hsame
    · obtain rfl : i = j := Option.some.inj (hs.symm.trans hj)
      exact .inr ⟨hturn, hexec⟩
    · simp [hs] at hidle
    · exact .inl hreset

/-! ## `STATUS` and the reset state -/

/-- `BUSY` as a number. -/
theorem State.busy_toNat (s : State) : s.busy.toNat = if s.pend = none then 0 else 1 := by
  cases hp : s.pend <;> simp [State.busy, hp]

/-- The `STATUS` byte as a number: four bits, so that nothing is lost (10_state.md R34, R35). -/
theorem statusByte_toNat (s : State) :
    (statusByte s).toNat =
      s.errSeq.toNat * 8 + s.errBusy.toNat * 4 + s.errIll.toNat * 2 + (if s.pend = none then 0 else 1) := by
  have h3 := s.errSeq.toNat_le
  have h2 := s.errBusy.toNat_le
  have h1 := s.errIll.toNat_le
  have h0 := s.busy.toNat_le
  rw [← s.busy_toNat, statusByte, BitVec.toNat_ofNat]
  omega

/-- Settles O8: both accesses reach `STATUS` busy or idle. -/
theorem statusWriteClearsAndStatusReadShowsFlags : Obligations.StatusWriteClearsAndStatusReadShowsFlags := by
  refine ⟨fun s v rest => ?_, fun s rest => ⟨statusByte s, ?_, statusByte_toNat s⟩⟩
  · show Host.Outcome.next (State.memWrite { s with inputs := rest } 0x31 v) = _
    rw [State.memWrite_status]
    rfl
  · show Host.Outcome.next (State.hostRead { s with inputs := rest } 0x31) = _
    rw [State.hostRead, State.memRead_status]
    rfl

/-- After reset every register of the window is 0x00 but the two S-box ports, which follow `SBOX_IN` = 0x00. -/
theorem State.windowReg_reset (r : WindowReg) :
    State.reset.windowReg r = if r = .sboxOut ∨ r = .sboxDelta then 0x63 else 0x00 := by
  cases r with
  | key k => exact Vector.getElem_replicate ..
  | state k => exact Vector.getElem_replicate ..
  | word k => exact Vector.getElem_replicate ..
  | _ => decide

/-- Settles O16: the idle read of each register, and the two addresses of the ports. -/
theorem resetStateReadsZeroAtEveryAddress : Obligations.ResetStateReadsZeroAtEveryAddress := by
  refine ⟨⟨rfl, rfl, rfl, rfl⟩, fun a => ?_⟩
  rw [State.memRead_of_idle rfl, State.window, State.windowReg_reset]
  simp only [decodeAddr_eq_sboxOut_iff, decodeAddr_eq_sboxDelta_iff]

/-- Settles O48: `ITER` is 0 after reset. -/
theorem resetMeetsTheIterInvariant : Obligations.ResetMeetsTheIterInvariant := by
  show (0x00 : Byte).toNat ≤ 60
  decide

end Sys2Proof.Machine
end

section
/-! PROOFS. Host accesses to the register window (20_memory.md R60, R62 to R66, R68, R71): what a read and a write of
each register do, idle and busy, and that a pending command's operands stand still. -/

namespace Sys2Proof.Machine

/-! ## The substitution port and the `STATUS` byte -/

/-- The table the engine stores is the exclusive-or of a byte with its S-box value (41_substitution.md R101). -/
theorem delta_eq_xor_sbox (x : Byte) : delta x = x ^^^ Reference.sbox x := by
  rw [← substitute_eq_sbox, substitute, ← BitVec.xor_assoc, BitVec.xor_self, BitVec.zero_xor]

theorem statusByte_eq (s : State) :
    statusByte s = BitVec.ofNat 8
      (s.errSeq.toNat * 8 + s.errBusy.toNat * 4 + s.errIll.toNat * 2 + (if s.pend = none then 0 else 1)) := by
  rw [← statusByte_toNat, BitVec.ofNat_toNat, BitVec.setWidth_eq]

theorem statusByte_of_idle {s : State} (h : s.pend = none) :
    statusByte s = BitVec.ofNat 8 (s.errSeq.toNat * 8 + s.errBusy.toNat * 4 + s.errIll.toNat * 2) := by
  rw [statusByte_eq, if_pos h, Nat.add_zero]

theorem statusByte_of_busy {s : State} {i : Instr} (h : s.pend = some i) :
    statusByte s = BitVec.ofNat 8 (s.errSeq.toNat * 8 + s.errBusy.toNat * 4 + s.errIll.toNat * 2 + 1) := by
  rw [statusByte_eq, if_neg (by simp [h])]

/-! ## The step of a host access -/

/-- An idle write goes to the register its address stands for. -/
theorem step_write_of_idle {s : State} (h : s.pend = none) {a : Addr} {r : WindowReg} (hr : decodeAddr a = r)
    (v : Byte) (rest : List Event) :
    step { s with inputs := .write a v :: rest } = .next (State.writeReg { s with inputs := rest } v r) := by
  subst hr
  exact congrArg Host.Outcome.next (State.memWrite_of_idle (s := { s with inputs := rest }) h a v)

/-- What a register holds does not depend on the events to come. -/
theorem State.windowReg_inputs (s : State) (rest : List Event) (r : WindowReg) :
    State.windowReg { s with inputs := rest } r = s.windowReg r := by
  cases r <;> rfl

/-- What a read returns does not depend on the events to come. -/
theorem State.memRead_inputs (s : State) (rest : List Event) (a : Addr) :
    State.memRead { s with inputs := rest } a = s.memRead a := by
  unfold State.memRead State.window
  rw [State.windowReg_inputs]
  rfl

/-- A read gives the host one byte and changes nothing of the engine (20_memory.md R62). -/
theorem step_read (s : State) (a : Addr) (rest : List Event) :
    step { s with inputs := .read a :: rest } =
      .next { s with inputs := rest, reads := s.reads ++ [s.memRead a] } := by
  rw [← s.memRead_inputs rest]
  rfl

/-- An idle read returns the register its address stands for. -/
theorem step_read_of_idle {s : State} (h : s.pend = none) {a : Addr} {r : WindowReg} (hr : decodeAddr a = r)
    (rest : List Event) :
    step { s with inputs := .read a :: rest } =
      .next { s with inputs := rest, reads := s.reads ++ [s.windowReg r] } := by
  rw [step_read, State.memRead_of_idle h, State.window, hr]

/-- A legal byte written to `CMD` is accepted (30_encoding.md R84). -/
theorem State.command_of_legal {v : Byte} {i : Instr} {rest : List Byte} (h : decode [v] = .command i rest)
    (s : State) : s.command v = s.accept i := by
  simp [State.command, h]

/-- The bytes from 0x0D are no commands (30_encoding.md R87). -/
theorem commandOf_of_illegal {v : Byte} (h : 0x0D ≤ v.toNat) : commandOf v = none := by
  revert v; decide

/-- An illegal byte written to `CMD` raises `ERR_ILL` (30_encoding.md R83). -/
theorem State.command_of_illegal {v : Byte} (h : 0x0D ≤ v.toNat) (s : State) : s.command v = s.raiseErr .ill := by
  simp [State.command, decode, commandOf_of_illegal h]

/-! ## Registers that take a byte written to them -/

/-- The registers an idle write sets to the byte written; `CMD` and `STATUS` give the byte a meaning of their own. -/
def WindowReg.takesByte : WindowReg → Bool
  | .key _ | .state _ | .word _ | .widx | .sboxIn => true
  | .cmd | .status | .iter | .sboxOut | .sboxDelta | .reserved => false

/-- Where the registers that take a byte stand (10_state.md R20). -/
theorem takesByte_decodeAddr_iff (a : Addr) :
    (decodeAddr a).takesByte = true ↔ a.toNat < 0x39 ∧ a ≠ 0x30 ∧ a ≠ 0x31 ∧ a ≠ 0x33 := by
  revert a; decide

theorem decodeAddr_eq_sboxIn_iff (a : Addr) : decodeAddr a = .sboxIn ↔ a = 0x38 :=
  decodeAddr_eq_iff (b := 0x38) (by decide)

/-- Which registers stand at the addresses that ignore a write (20_memory.md R66, 10_state.md R39). -/
theorem decodeAddr_of_readOnly {a : Addr} (h : a = 0x33 ∨ 0x39 ≤ a.toNat) :
    (decodeAddr a).takesByte = false ∧ decodeAddr a ≠ .cmd ∧ decodeAddr a ≠ .status := by
  revert a; decide

/-- A register that takes no byte and is neither `CMD` nor `STATUS` ignores a write (20_memory.md R66). -/
theorem State.writeReg_of_not_takesByte (s : State) (v : Byte) {r : WindowReg} (hr : r.takesByte = false)
    (hcmd : r ≠ .cmd) (hstatus : r ≠ .status) : s.writeReg v r = s := by
  cases r with
  | key | state | word | widx | sboxIn => exact nomatch hr
  | cmd => exact absurd rfl hcmd
  | status => exact absurd rfl hstatus
  | iter | sboxOut | sboxDelta | reserved => rfl

/-- A register that takes a byte reads back the byte written. -/
theorem State.windowReg_writeReg_same (s : State) (v : Byte) {r : WindowReg} (hr : r.takesByte = true) :
    (s.writeReg v r).windowReg r = v := by
  cases r with
  | key k | state k | word k => exact Vector.getElem_set_self _
  | widx | sboxIn => rfl
  | cmd | status | iter | sboxOut | sboxDelta | reserved => exact nomatch hr

/-- A register write moves no other register, but for the two ports computed from `SBOX_IN` (20_memory.md R68,
70_reset_and_hazards.md R259). -/
theorem State.windowReg_writeReg_other (s : State) (v : Byte) {r q : WindowReg} (hr : r.takesByte = true) (hq : q ≠ r)
    (hport : ¬(r = .sboxIn ∧ (q = .sboxOut ∨ q = .sboxDelta))) : (s.writeReg v r).windowReg q = s.windowReg q := by
  cases r with
  | key k =>
    cases q with
    | key j => exact Vector.getElem_set_ne k.isLt j.isLt fun e => hq (congrArg _ (Fin.ext e.symm))
    | _ => rfl
  | state k =>
    cases q with
    | state j => exact Vector.getElem_set_ne k.isLt j.isLt fun e => hq (congrArg _ (Fin.ext e.symm))
    | _ => rfl
  | word k =>
    cases q with
    | word j => exact Vector.getElem_set_ne k.isLt j.isLt fun e => hq (congrArg _ (Fin.ext e.symm))
    | _ => rfl
  | widx =>
    cases q with
    | widx => exact absurd rfl hq
    | _ => rfl
  | sboxIn =>
    cases q with
    | sboxIn => exact absurd rfl hq
    | sboxOut => exact absurd ⟨rfl, .inl rfl⟩ hport
    | sboxDelta => exact absurd ⟨rfl, .inr rfl⟩ hport
    | _ => rfl
  | cmd | status | iter | sboxOut | sboxDelta | reserved => exact nomatch hr

/-! ## The claims about accesses -/

/-- Settles O12: the address holds a register that takes the byte, or one that ignores the write. -/
theorem idleWriteChangesOnlyItsByte : Obligations.IdleWriteChangesOnlyItsByte := by
  intro s t a v rest hidle hcmd hstatus h
  obtain rfl := eq_of_step_eq h (step_write_of_idle hidle rfl v rest)
  refine ⟨fun hlt hiter => ?_, fun b hba hport => ?_⟩
  · exact State.windowReg_writeReg_same _ v ((takesByte_decodeAddr_iff a).2 ⟨hlt, hcmd, hstatus, hiter⟩)
  · rw [State.window, State.window, ← s.windowReg_inputs rest]
    cases htakes : (decodeAddr a).takesByte with
    | true =>
      have hres : decodeAddr a ≠ .reserved := fun e => by
        rw [e] at htakes
        exact nomatch htakes
      apply State.windowReg_writeReg_other _ v htakes (mt (decodeAddr_eq_iff hres).1 hba)
      rwa [decodeAddr_eq_sboxIn_iff, decodeAddr_eq_sboxOut_iff, decodeAddr_eq_sboxDelta_iff]
    | false =>
      rw [State.writeReg_of_not_takesByte _ v htakes (mt (decodeAddr_eq_cmd_iff a).1 hcmd)
        (mt (decodeAddr_eq_status_iff a).1 hstatus)]

/-- A step that leaves a command pending is a host access: it moves error flags, the host's events and what the host
has read, and nothing else (20_memory.md R64, R65). -/
theorem step_frame_of_stillPending {s t : State} {i : Instr} (h : step s = .next t) (hs : s.pend = some i)
    (ht : t.pend ≠ none) : ∃ (ill busy seq : Bool) (inputs : List Event) (reads : List Byte),
      t = { s with errIll := ill, errBusy := busy, errSeq := seq, inputs := inputs, reads := reads } := by
  rcases step_cases s with ⟨j, -, -, e⟩ | ⟨hidle, -, -⟩ | ⟨a, -, e⟩ | ⟨a, v, -, e⟩ | ⟨-, e⟩
  · obtain rfl := eq_of_step_eq h e
    exact absurd rfl ht
  · exact absurd (hs.symm.trans hidle) nofun
  · obtain rfl := eq_of_step_eq h e
    exact ⟨_, _, _, _, _, rfl⟩
  · obtain rfl := eq_of_step_eq h e
    rcases State.memWrite_cases { s with inputs := s.inputs.tail } a v with ⟨-, e⟩ | e | ⟨hidle, -⟩
    · exact ⟨_, _, _, _, _, e⟩
    · exact ⟨_, _, _, _, _, e⟩
    · exact absurd (hs.symm.trans hidle) nofun
  · obtain rfl := eq_of_step_eq h e
    exact absurd rfl ht

/-- Settles O54: no operand is among what such a step moves. -/
theorem operandsStayFixedWhileBusy : Obligations.OperandsStayFixedWhileBusy := by
  intro s t i h hs ht
  obtain ⟨ill, busy, seq, inputs, reads, rfl⟩ := step_frame_of_stillPending h hs ht
  exact ⟨hs, rfl, rfl, rfl, rfl, rfl, rfl⟩

/-- Settles O7: the drop at every address but 0x31, and the acknowledgement there. -/
theorem busyWriteIsDroppedWithErrBusy : Obligations.BusyWriteIsDroppedWithErrBusy := by
  intro s i a v rest
  refine ⟨fun ha => ?_, ?_⟩
  · exact congrArg Host.Outcome.next
      (State.memWrite_of_busy (s := { s with pend := some i, inputs := rest }) rfl ha v)
  · exact statusWriteClearsAndStatusReadShowsFlags.1 { s with pend := some i } v rest

/-- Settles O9: one idle write for each row of the register map. -/
theorem idleWriteReachesItsRegister : Obligations.IdleWriteReachesItsRegister := by
  intro s v rest hidle
  refine ⟨fun k => ?key, fun k => ?state, fun i hv => ?accept, fun hv => ?illegal, ?status, ?widx, fun k => ?word,
    ?sboxIn, fun a ha => ?ignored⟩
  case key => exact step_write_of_idle hidle (decodeAddr_key k) v rest
  case state => exact step_write_of_idle hidle (decodeAddr_state k) v rest
  case accept =>
    exact (step_write_of_idle (r := .cmd) hidle rfl v rest).trans (congrArg _ (State.command_of_legal hv _))
  case illegal =>
    exact (step_write_of_idle (r := .cmd) hidle rfl v rest).trans (congrArg _ (State.command_of_illegal hv _))
  case status => exact step_write_of_idle (r := .status) hidle rfl v rest
  case widx => exact step_write_of_idle (r := .widx) hidle rfl v rest
  case word => exact step_write_of_idle hidle (decodeAddr_word k) v rest
  case sboxIn => exact step_write_of_idle (r := .sboxIn) hidle rfl v rest
  case ignored =>
    obtain ⟨htakes, hcmd, hstatus⟩ := decodeAddr_of_readOnly ha
    rw [step_write_of_idle hidle rfl, State.writeReg_of_not_takesByte _ v htakes hcmd hstatus]

/-- Settles O10: one idle read for each row of the register map. -/
theorem idleReadReturnsItsRegister : Obligations.IdleReadReturnsItsRegister := by
  intro s rest hidle
  refine ⟨fun k => ?key, fun k => ?state, ?cmd, ?status, ?widx, ?iter, fun k => ?word, ?sboxIn, ?sboxOut, ?sboxDelta,
    fun a ha => ?reserved⟩
  case key => exact step_read_of_idle hidle (decodeAddr_key k) rest
  case state => exact step_read_of_idle hidle (decodeAddr_state k) rest
  case cmd => exact step_read_of_idle (r := .cmd) hidle rfl rest
  case status =>
    rw [← statusByte_of_idle hidle]
    exact step_read_of_idle (r := .status) hidle rfl rest
  case widx => exact step_read_of_idle (r := .widx) hidle rfl rest
  case iter => exact step_read_of_idle (r := .iter) hidle rfl rest
  case word => exact step_read_of_idle hidle (decodeAddr_word k) rest
  case sboxIn => exact step_read_of_idle (r := .sboxIn) hidle rfl rest
  case sboxOut =>
    rw [← substitute_eq_sbox]
    exact step_read_of_idle (r := .sboxOut) hidle rfl rest
  case sboxDelta =>
    rw [← delta_eq_xor_sbox]
    exact step_read_of_idle (r := .sboxDelta) hidle rfl rest
  case reserved => exact step_read_of_idle hidle (decodeAddr_reserved ha) rest

/-- Settles O11: `STATUS` is live, every other address is masked. -/
theorem busyReadShowsOnlyStatus : Obligations.BusyReadShowsOnlyStatus := by
  intro s i rest
  refine ⟨fun a ha => ?_, ?_⟩
  · have h := step_read { s with pend := some i } a rest
    rwa [State.memRead_of_busy rfl ha] at h
  · have h := step_read { s with pend := some i } 0x31 rest
    rwa [State.memRead_status, statusByte_of_busy rfl] at h

/-- Settles O14: the offset of an address in the window, and the addresses before and after the window. -/
theorem windowOffsetIsRelativeToItsBase : Obligations.WindowOffsetIsRelativeToItsBase := by
  refine ⟨fun a => ?_, fun h hout => ?_⟩
  · have hin : Config.windowBase ≤ Config.windowBase + a.toNat ∧
        Config.windowBase + a.toNat < Config.windowBase + 64 :=
      ⟨Nat.le_add_right _ _, Nat.add_lt_add_left a.isLt _⟩
    rw [windowOffset, if_pos hin, Nat.add_sub_cancel_left, BitVec.ofNat_toNat, BitVec.setWidth_eq]
  · rw [windowOffset, if_neg (by omega)]

end Sys2Proof.Machine
end

section
/-! PROOFS. The encoding of commands (30_encoding.md R80 to R88): decoder and encoder are inverse, what a write to `CMD`
does, and what the completion of a command does and leaves alone. -/

namespace Sys2Proof.Machine

/-! ## The decoder -/

/-- The opcode map and the command bytes are inverse to each other (30_encoding.md R81). -/
theorem commandOf_opcode (i : Instr) : commandOf (opcode i) = some i := by
  cases i <;> rfl

theorem eq_opcode_of_commandOf {v : Byte} {i : Instr} (h : commandOf v = some i) : v = opcode i := by
  have hall : ∀ v : Byte, ∀ i ∈ commandOf v, v = opcode i := by decide
  exact hall v i h

/-- The legal bytes are those below 0x0D (30_encoding.md R81, R87). -/
theorem commandOf_isSome_of_legal {v : Byte} (h : v.toNat < 0x0D) : (commandOf v).isSome = true := by
  revert v; decide

/-- A decoder that answers a command has read that command's byte and no other (30_encoding.md R80, R88). -/
theorem decode_eq_command_iff {bytes rest : List Byte} {i : Instr} :
    decode bytes = .command i rest ↔ bytes = encode i ++ rest := by
  constructor
  · intro h
    cases bytes with
    | nil => exact nomatch h
    | cons v tail =>
      cases hv : commandOf v with
      | none => simp [decode, hv] at h
      | some j =>
        obtain ⟨rfl, rfl⟩ := Decoded.command.inj ((decode_of_commandOf hv tail).symm.trans h)
        rw [eq_opcode_of_commandOf hv]
        rfl
  · rintro rfl
    exact decode_of_commandOf (commandOf_opcode i) rest

/-- Settles O3: the decoder reads one byte, which the opcode map gives back. -/
theorem onlyTheEncodingDecodesToACommand : Obligations.OnlyTheEncodingDecodesToACommand :=
  fun _ _ _ => decode_eq_command_iff.1

/-- Settles O2: the other direction, which needs no more of the command than its byte. -/
theorem decodeInvertsEncode : Obligations.DecodeInvertsEncode :=
  fun _ _ _ => decode_eq_command_iff.2 rfl

/-- Settles O1: each of the bytes is the encoding of its command. -/
theorem commandBytesDecodeToTheirCommands : Obligations.CommandBytesDecodeToTheirCommands := by
  have hdecode (i : Instr) : decode [opcode i] = .command i [] := decode_eq_command_iff.2 rfl
  exact ⟨hdecode .nop, hdecode .rotword, hdecode .subword, hdecode .xorrcon, hdecode .keystep, hdecode .subbytes,
    hdecode .shiftrows, hdecode .mixcolumns, hdecode .arkLo, hdecode .arkHi, hdecode .encInit, hdecode .encStep,
    hdecode .encrypt⟩

/-- Settles O4: the opcode map is empty from 0x0D on and filled below. -/
theorem exactlyTheIllegalBytesAreRejected : Obligations.ExactlyTheIllegalBytesAreRejected := by
  refine fun v rest => ⟨fun hv => ?_, fun hv => ?_⟩
  · rw [decode, commandOf_of_illegal hv]
  · obtain ⟨i, hi⟩ := Option.isSome_iff_exists.1 (commandOf_isSome_of_legal hv)
    exact ⟨i, decode_of_commandOf hi rest⟩

/-! ## Writes to `CMD` -/

/-- Settles O5: the `CMD` row of the idle write table, and the drop of a busy write. -/
theorem legalCommandIsAcceptedOnlyWhenIdle : Obligations.LegalCommandIsAcceptedOnlyWhenIdle := by
  refine fun s v rest => ⟨?_, fun j => ?_⟩
  · obtain ⟨-, -, haccept, -⟩ := idleWriteReachesItsRegister { s with pend := none } v rest rfl
    exact haccept
  · exact (busyWriteIsDroppedWithErrBusy s j 0x30 v rest).1 (by decide)

/-- Settles O6: the other outcome in the `CMD` row of the idle write table. -/
theorem illegalCommandSetsErrIll : Obligations.IllegalCommandSetsErrIll := by
  intro s v rest
  obtain ⟨-, -, -, hillegal, -⟩ := idleWriteReachesItsRegister { s with pend := none } v rest rfl
  exact hillegal

/-! ## The engine's turn -/

/-- On the engine's turn the pending command completes (30_encoding.md R85). -/
theorem step_engine_of_pending {s : State} {i : Instr} (h : s.pend = some i) (rest : List Event) :
    step { s with inputs := .engine :: rest } = exec i { s with inputs := rest } := by
  simp [step, engineTurn, h]

/-- With no event left the engine takes its turn (log entry 2). -/
theorem step_nil_of_pending {s : State} {i : Instr} (hp : s.pend = some i) (h : s.inputs = []) :
    step s = exec i s := by
  simp [step, engineTurn, hp, h]

/-- A table word that decodes is accepted, with the engine's turn next (log entry 3). -/
theorem State.withFetchWord_of_command {nbits w : Nat} {i : Instr} (h : decodeTableWord nbits w = some i) (s : State) :
    s.withFetchWord nbits w = { s with pend := some i, inputs := .engine :: s.inputs } := by
  simp [State.withFetchWord, h]

/-- Settles O17: the two turns of a busy and of an idle engine, and the turn after a word is placed. -/
theorem engineStepRunsTheDecodedCommand : Obligations.EngineStepRunsTheDecodedCommand := by
  refine ⟨fun s i rest => ⟨?_, step_nil_of_pending rfl rfl, rfl, rfl⟩, fun s nbits w i hw _ => ?_⟩
  · exact step_engine_of_pending (s := { s with pend := some i }) rfl rest
  · rw [State.withFetchWord_of_command hw]
    exact step_engine_of_pending (s := { s with pend := some i }) rfl s.inputs

/-! ## Completions -/

/-- An ENC_STEP body writes no field but `KEY`, `STATE`, `ITER` and `ERR_SEQ` (45_orchestrator.md R192). -/
theorem State.encStepBody_frame (s : State) :
    ∃ (key : KeyBuffer) (b : Block) (iter : Byte) (seq : Bool),
      s.encStepBody = { s with key := key, state := b, iter := iter, errSeq := seq } := by
  rcases s.encStepBody_cases with h | ⟨h, -⟩
  · exact ⟨_, _, _, _, h⟩
  · exact ⟨_, _, _, _, h⟩

/-- The fields some command writes; ENC_STEP alone writes `ERR_SEQ` (30_encoding.md R82, R86). -/
theorem effect_frame (i : Instr) (s : State) :
    ∃ (key : KeyBuffer) (b : Block) (word : Word) (widx iter : Byte) (seq : Bool),
      effect i s = { s with key := key, state := b, word := word, widx := widx, iter := iter, errSeq := seq } ∧
        (i ≠ .encStep → seq = s.errSeq) := by
  cases i with
  | encStep =>
    obtain ⟨key, b, iter, seq, h⟩ := s.encStepBody_frame
    exact ⟨key, b, _, _, iter, seq, h, fun hne => absurd rfl hne⟩
  | encrypt =>
    obtain ⟨key, b, h⟩ := effect_encrypt_frame s
    exact ⟨key, b, _, _, _, _, h, fun _ => rfl⟩
  | _ => exact ⟨_, _, _, _, _, _, rfl, fun _ => rfl⟩

/-- Settles O18: every completion is its command's effect, retired, and the frame of the effect. -/
theorem everyCommandCompletesAndClearsBusy : Obligations.EveryCommandCompletesAndClearsBusy := by
  intro i s
  obtain ⟨key, b, word, widx, iter, seq, h, hseq⟩ := effect_frame i s
  refine ⟨_, exec_eq_effect i s, ?_⟩
  rw [h]
  exact ⟨rfl, rfl, rfl, rfl, rfl, rfl, hseq⟩

/-! ## The writes column -/

/-- The writes column of 30_encoding.md R82, on registers: XORRCON writes the first byte of `WORD` only. -/
def writesReg : Instr → WindowReg → Bool
  | .rotword, .word _ | .subword, .word _ => true
  | .xorrcon, .word k => k == 0
  | .keystep, .key _ | .keystep, .widx => true
  | .subbytes, .state _ | .shiftrows, .state _ | .mixcolumns, .state _ | .arkLo, .state _ | .arkHi, .state _ => true
  | .encInit, .state _ | .encInit, .iter => true
  | .encStep, .key _ | .encStep, .state _ | .encStep, .iter => true
  | .encrypt, .key _ | .encrypt, .state _ | .encrypt, .iter => true
  | _, _ => false

/-- Registers and addresses give the same column. -/
theorem writesReg_decodeAddr (i : Instr) (a : Addr) : writesReg i (decodeAddr a) = writesAddr i a := by
  revert a
  cases i <;> decide

/-- The exclusive-or with `Rcon` leaves every byte of a word but the first (42_word_primitives.md R123). -/
theorem getElem_xorRcon_of_ne_zero (j : Nat) (w : Word) {k : Fin 4} (h : k ≠ 0) : (xorRcon j w)[k] = w[k] := by
  match k with
  | 0 => exact absurd rfl h
  | 1 | 2 | 3 => rfl

theorem effect_key_of_not_writes {i : Instr} {k : Fin 32} (h : writesReg i (.key k) = false) (s : State) :
    (effect i s).key = s.key := by
  cases i with
  | keystep | encStep | encrypt => exact nomatch h
  | encInit => exact s.encInitBody_key
  | _ => dsimp only [effect]

theorem effect_state_of_not_writes {i : Instr} {k : Fin 16} (h : writesReg i (.state k) = false) (s : State) :
    (effect i s).state = s.state := by
  cases i with
  | subbytes | shiftrows | mixcolumns | arkLo | arkHi | encInit | encStep | encrypt => exact nomatch h
  | _ => dsimp only [effect]

theorem effect_word_of_not_writes {i : Instr} {k : Fin 4} (h : writesReg i (.word k) = false) (s : State) :
    (effect i s).word[k] = s.word[k] := by
  cases i with
  | rotword | subword => exact nomatch h
  | xorrcon => exact getElem_xorRcon_of_ne_zero s.widx.toNat s.word (beq_eq_false_iff_ne.1 h)
  | encInit => rw [effect, s.encInitBody_word]
  | encStep =>
    obtain ⟨key, b, iter, seq, hbody⟩ := s.encStepBody_frame
    rw [effect, hbody]
  | encrypt =>
    obtain ⟨key, b, hbody⟩ := effect_encrypt_frame s
    rw [hbody]
  | _ => dsimp only [effect]

theorem effect_widx_of_not_writes {i : Instr} (h : writesReg i .widx = false) (s : State) :
    (effect i s).widx = s.widx := by
  rcases effect_widx i s with hw | ⟨rfl, -⟩
  · exact hw
  · exact nomatch h

theorem effect_iter_of_not_writes {i : Instr} (h : writesReg i .iter = false) (s : State) :
    (effect i s).iter = s.iter := by
  rcases effect_iter i s with hi | ⟨rfl, -⟩ | ⟨rfl, -⟩ | ⟨rfl, -⟩
  · exact hi
  all_goals exact nomatch h

/-- No command writes `SBOX_IN` (10_state.md R36). -/
theorem effect_sboxIn (i : Instr) (s : State) : (effect i s).sboxIn = s.sboxIn := by
  obtain ⟨key, b, word, widx, iter, seq, h, -⟩ := effect_frame i s
  rw [h]

/-- A completion's effect moves no register outside the command's writes column, `STATUS` apart, whose `ERR_SEQ` is
ENC_STEP's. -/
theorem windowReg_effect_of_not_writes {i : Instr} {r : WindowReg} (hr : writesReg i r = false)
    (hstatus : r ≠ .status) (s : State) : (effect i s).windowReg r = s.windowReg r := by
  cases r with
  | key k => rw [State.windowReg, effect_key_of_not_writes hr, State.windowReg]
  | state k => rw [State.windowReg, effect_state_of_not_writes hr, State.windowReg]
  | word k => exact effect_word_of_not_writes hr s
  | widx => exact effect_widx_of_not_writes hr s
  | iter => exact effect_iter_of_not_writes hr s
  | sboxIn | sboxOut | sboxDelta => rw [State.windowReg, effect_sboxIn, State.windowReg]
  | cmd | reserved => rw [State.windowReg, State.windowReg]
  | status => exact absurd rfl hstatus

/-- Clearing `BUSY` shows in `STATUS` alone (30_encoding.md R85). -/
theorem State.windowReg_retire {r : WindowReg} (h : r ≠ .status) (s : State) :
    s.retire.windowReg r = s.windowReg r := by
  cases r with
  | status => exact absurd rfl h
  | _ => rfl

/-- Settles O19: the register at the address is outside the writes column and is not `STATUS`. -/
theorem commandsWriteOnlyTheirOperands : Obligations.CommandsWriteOnlyTheirOperands := by
  intro i s t a h hstatus hwrites
  obtain rfl : t = (effect i s).retire := Host.Outcome.next.inj (h.symm.trans (exec_eq_effect i s))
  have hreg : decodeAddr a ≠ .status := mt (decodeAddr_eq_status_iff a).1 hstatus
  have hcol : writesReg i (decodeAddr a) = false := (writesReg_decodeAddr i a).trans hwrites
  exact (State.windowReg_retire hreg _).trans (windowReg_effect_of_not_writes hcol hreg s)

end Sys2Proof.Machine
end

section
/-! PROOFS. The substitution unit (41_substitution.md R100 to R105): the stored table against the S-box, the S-box as
the field inverse followed by the affine map, and the read port. -/

namespace Sys2Proof.Machine

/-! ## The stored table -/

/-- Settles O26: the stored table is the exclusive-or of a byte with its S-box value, and substitution is the XOR with
the stored byte. -/
theorem deltaTableIsXorOfTheSbox : Obligations.DeltaTableIsXorOfTheSbox :=
  fun x => ⟨delta_eq_xor_sbox x, substitute_eq_sbox x⟩

/-- No stored byte is 0x00 or 0xFF (41_substitution.md R105). -/
theorem delta_ne_zero_and_ne_allOnes : ∀ x : Byte, delta x ≠ 0x00 ∧ delta x ≠ 0xFF := by decide

theorem delta_eq_one_iff : ∀ x : Byte, delta x = 0x01 ↔ x = 0xC7 ∨ x = 0xE0 := by decide

/-- What substitution changes of a byte is the stored byte. -/
theorem substitute_eq_xor_iff (x d : Byte) : substitute x = x ^^^ d ↔ delta x = d := BitVec.xor_right_inj x

/-! ## The field inverse -/

/-- The inverse of the affine map of 41_substitution.md R104. -/
def invAffine (y : Byte) : Byte := y.rotateLeft 1 ^^^ y.rotateLeft 3 ^^^ y.rotateLeft 6 ^^^ 0x05

theorem affine_invAffine : ∀ y : Byte, Reference.affine (invAffine y) = y := by decide

/-- The inverse in GF(2^8), 0 for 0, read off the S-box table by undoing the affine map. -/
def fieldInverse (x : Byte) : Byte := invAffine (Reference.sbox x)

theorem sbox_eq_affine_fieldInverse (x : Byte) : Reference.sbox x = Reference.affine (fieldInverse x) :=
  (affine_invAffine _).symm

theorem fieldInverse_zero : fieldInverse 0 = 0 := by decide

/-- `fieldInverse` is the inverse of the field's multiplication (41_substitution.md R104). -/
theorem gfMul_fieldInverse : ∀ x : Byte, x ≠ 0 → Reference.gfMul x (fieldInverse x) = 1 := by decide

/-- The inverse of the inverse of a byte is that byte. -/
theorem fieldInverse_involutive : Function.Involutive fieldInverse := by
  unfold Function.Involutive
  decide

/-- Settles O27: the byte that the affine map takes to `S(x)` is the field inverse of `x`. -/
theorem sboxIsInverseThenAffineMap : Obligations.SboxIsInverseThenAffineMap := by
  refine fun x => ⟨fieldInverse x, fun hx => ?_, gfMul_fieldInverse x, sbox_eq_affine_fieldInverse x⟩
  rw [hx, fieldInverse_zero]

/-! ## The permutation -/

/-- Equal S-box values have equal field inverses under the affine map, and the inverse is injective. -/
theorem substitute_injective : Function.Injective substitute := by
  intro x y h
  rw [substitute_eq_sbox, substitute_eq_sbox] at h
  exact fieldInverse_involutive.injective (congrArg invAffine h)

/-- An injective map of the 256 bytes meets each of them. -/
theorem substitute_surjective : Function.Surjective substitute :=
  Finite.surjective_of_injective substitute_injective

/-- Settles O28: the permutation from the field inverse, the absent fixed points from the stored bytes. -/
theorem sboxIsAPermutationWithoutFixedPoints : Obligations.SboxIsAPermutationWithoutFixedPoints := by
  refine ⟨fun _ _ h => substitute_injective h, substitute_surjective, fun x => ?_, delta_eq_one_iff⟩
  obtain ⟨hzero, hones⟩ := delta_ne_zero_and_ne_allOnes x
  refine ⟨fun h => hzero ?_, mt (substitute_eq_xor_iff x _).1 hones, hzero⟩
  exact (substitute_eq_xor_iff x 0).1 (h.trans BitVec.xor_zero.symm)

/-! ## The read port -/

/-- A run of `k + 1` steps is one step, then a run of `k`. -/
theorem run_succ_of_step {M : Host.Core} {s t : M.State} (h : M.step s = .next t) (k : Nat) :
    M.run (k + 1) s = M.run k t := by
  simp only [Host.Core.run, h]

/-- Three steps in a row are a run of three. -/
theorem run_three_of_steps {s t u v : State} (hst : step s = .next t) (htu : step t = .next u)
    (huv : step u = .next v) : Host.Core.run Sys2Proof.core 3 s = .next v :=
  calc Host.Core.run Sys2Proof.core 3 s
    _ = Host.Core.run Sys2Proof.core 2 t := run_succ_of_step hst 2
    _ = Host.Core.run Sys2Proof.core 1 u := run_succ_of_step htu 1
    _ = .next v := run_succ_of_step huv 0

/-- A busy write away from `STATUS` sets `ERR_BUSY` and nothing else (20_memory.md R65). -/
theorem step_write_of_busy {s : State} {i : Instr} (h : s.pend = some i) {a : Addr} (ha : a ≠ 0x31) (v : Byte)
    (rest : List Event) :
    step { s with inputs := .write a v :: rest } = .next { s with inputs := rest, errBusy := true } :=
  congrArg Host.Outcome.next (State.memWrite_of_busy (s := { s with inputs := rest }) h ha v)

/-- A busy read away from `STATUS` returns 0x00 (20_memory.md R64). -/
theorem step_read_of_busy {s : State} {i : Instr} (h : s.pend = some i) {a : Addr} (ha : a ≠ 0x31)
    (rest : List Event) :
    step { s with inputs := .read a :: rest } = .next { s with inputs := rest, reads := s.reads ++ [0x00] } := by
  rw [step_read, State.memRead_of_busy h ha]

/-- Settles O13: the write, then the two reads, each by its rule while idle and while busy. -/
theorem sboxPortLooksUpTheLastByteWritten : Obligations.SboxPortLooksUpTheLastByteWritten := by
  refine fun s x rest => ⟨fun hidle => ?idle, fun i hbusy => ?busy⟩
  case idle =>
    rw [← delta_eq_xor_sbox, ← substitute_eq_sbox, List.append_cons]
    exact run_three_of_steps
      (step_write_of_idle (a := 0x38) (r := .sboxIn) hidle rfl x _)
      (step_read_of_idle (s := { s with sboxIn := x }) (a := 0x39) (r := .sboxOut) hidle rfl _)
      (step_read_of_idle (s := { s with sboxIn := x, reads := s.reads ++ [substitute x] }) (a := 0x3A)
        (r := .sboxDelta) hidle rfl _)
  case busy =>
    rw [List.append_cons]
    exact run_three_of_steps
      (step_write_of_busy hbusy (a := 0x38) (by decide) x _)
      (step_read_of_busy (s := { s with errBusy := true }) hbusy (a := 0x39) (by decide) _)
      (step_read_of_busy (s := { s with errBusy := true, reads := s.reads ++ [0x00] }) hbusy (a := 0x3A)
        (by decide) _)

end Sys2Proof.Machine
end

section
/-! PROOFS. The word primitives (42_word_primitives.md R120 to R128): each command's result byte by byte, the round
constants, and sequences of commands that restore their operand or recompute a generator step. -/

namespace Sys2Proof.Machine

/-! ## Words and rotations -/

theorem word_eta (w : Word) : #v[w[0], w[1], w[2], w[3]] = w := by
  ext k hk
  match k with
  | 0 | 1 | 2 | 3 => rfl

/-- Four rotations by one byte are a whole turn (42_word_primitives.md R120). -/
theorem rotWord_four_times (w : Word) : rotWord (rotWord (rotWord (rotWord w))) = w := word_eta w

theorem subWord_eq_xor_delta (w : Word) :
    subWord w = #v[w[0] ^^^ delta w[0], w[1] ^^^ delta w[1], w[2] ^^^ delta w[2], w[3] ^^^ delta w[3]] := by
  rw [← word_eta (subWord w)]
  simp only [getElem_subWord, substitute]

/-! ## Round constants -/

/-- A row of the table with a constant (42_word_primitives.md R122). -/
theorem rcon_of_div_eq {j k : Nat} (h1 : 1 ≤ k) (h8 : k ≤ 8) (h : j / 8 = k) : rcon j = 1 <<< (k - 1) := by
  subst h
  exact if_pos ⟨h1, h8⟩

/-- The rows of the table without one (42_word_primitives.md R122). -/
theorem rcon_of_outOfRange {j : Nat} (h : j / 8 = 0 ∨ 9 ≤ j / 8) : rcon j = 0#8 :=
  if_neg (by omega)

/-- With a round constant of 0 the word stands. -/
theorem xorRcon_of_rcon_eq_zero {j : Nat} (h : rcon j = 0#8) (w : Word) : xorRcon j w = w := by
  rw [xorRcon, h, BitVec.xor_zero, word_eta]

/-- The same round constant twice cancels. -/
theorem xorRcon_xorRcon (j : Nat) (w : Word) : xorRcon j (xorRcon j w) = w := by
  show #v[w[0] ^^^ rcon j ^^^ rcon j, w[1], w[2], w[3]] = w
  rw [BitVec.xor_assoc, BitVec.xor_self, BitVec.xor_zero, word_eta]

/-! ## State transforms that restore the block -/

/-- Row `r` turns by `r` columns each time, and four times that is a whole number of turns
(44_state_transforms.md R161). -/
theorem shiftRows_four_times (b : Block) : shiftRows (shiftRows (shiftRows (shiftRows b))) = b := by
  have hturn : ∀ r c : Fin 4, c + r + r + r + r = c := by decide
  refine block_ext_cell fun r c => ?_
  rw [cell_shiftRows, cell_shiftRows, cell_shiftRows, cell_shiftRows, hturn]

/-- Adding the same half of `KEY` twice cancels (44_state_transforms.md R165). -/
theorem addRoundKey_addRoundKey (b : Block) (key : KeyBuffer) (h : Half) :
    addRoundKey (addRoundKey b key h) key h = b :=
  xorBytes_cancel b (keyHalf key h)

/-! ## The generator at a multiple of 8 -/

/-- At `q = 0` the scratch word is rotated, substituted and given the round constant (43_key_schedule.md R142). -/
theorem scratchTransform_of_mod_eq_zero {j : Nat} (h : j % 8 = 0) (w : Word) :
    scratchTransform j w = xorRcon j (subWord (rotWord w)) :=
  if_pos h

/-- At a multiple of 8 the generator's source is slot 7 and its sink slot 0 (43_key_schedule.md R142). -/
theorem keyWord_keyGen_of_mod_eq_zero {j : Nat} (h8 : 8 ≤ j) (h : j % 8 = 0) (key : KeyBuffer) :
    keyWord (keyGen j key) 0 = xorBytes (keyWord key 0) (xorRcon j (subWord (rotWord (keyWord key 7)))) := by
  have hsink : slot j = 0 := Fin.ext h
  have hsource : slot (j - 1) = 7 := Fin.ext (show (j - 1) % 8 = 7 by omega)
  have hgen := keyWord_keyGen_sink h8 key
  rwa [hsink, hsource, scratchTransform_of_mod_eq_zero h] at hgen

/-! ## Sequences of completions -/

theorem runCommands_nil (s : State) : runCommands [] s = .next s := rfl

/-- Every command completes, so a sequence goes on from its first command's effect (30_encoding.md R85). -/
theorem runCommands_cons (i : Instr) (rest : List Instr) (s : State) :
    runCommands (i :: rest) s = runCommands rest (effect i s).retire := by
  rw [runCommands, exec_eq_effect]

/-- Settles O25: both compute the transform that the generator applies to slot 7. -/
theorem wordCommandsRecomputeAGeneratorStep : Obligations.WordCommandsRecomputeAGeneratorStep := by
  intro s hword h8 hmod
  have hrun : runCommands [.rotword, .subword, .xorrcon] s =
      .next { s with word := xorRcon s.widx.toNat (subWord (rotWord s.word)), pend := none } := by
    simp only [runCommands_cons, runCommands_nil, effect, State.retire]
  refine ⟨_, _, hrun, exec_eq_effect .keystep s, ?_, rfl⟩
  rw [hword]
  exact keyWord_keyGen_of_mod_eq_zero h8 hmod s.key

/-- Settles O39: the operand of each sequence comes back to what it was. -/
theorem rotationsRestoreAndXorsCancel : Obligations.RotationsRestoreAndXorsCancel := by
  rintro s l (rfl | rfl | rfl | rfl | rfl) <;> simp only [runCommands_cons, runCommands_nil, effect, State.retire]
  · rw [rotWord_four_times]
  · rw [shiftRows_four_times]
  · rw [xorRcon_xorRcon]
  · rw [addRoundKey_addRoundKey]
  · rw [addRoundKey_addRoundKey]

/-! ## The three commands -/

/-- Settles O21: the effect of ROTWORD, retired. -/
theorem rotwordRotatesLeftByOneByte : Obligations.RotwordRotatesLeftByOneByte :=
  ⟨decode_eq_command_iff.2 rfl, exec_eq_effect .rotword⟩

/-- Settles O22: the effect of SUBWORD, retired, with the substituted bytes written out. -/
theorem subwordSubstitutesEachByte : Obligations.SubwordSubstitutesEachByte := by
  refine ⟨decode_eq_command_iff.2 rfl, fun s => ?_⟩
  rw [← subWord_eq_xor_delta]
  exact exec_eq_effect .subword s

/-- Settles O23: the two ranges without a constant, then one row for each constant. -/
theorem rconFollowsItsTable : Obligations.RconFollowsItsTable := by
  intro j
  exact ⟨fun h => rcon_of_outOfRange (.inl h), fun h => rcon_of_outOfRange (.inr h),
    rcon_of_div_eq (by decide) (by decide), rcon_of_div_eq (by decide) (by decide),
    rcon_of_div_eq (by decide) (by decide), rcon_of_div_eq (by decide) (by decide),
    rcon_of_div_eq (by decide) (by decide), rcon_of_div_eq (by decide) (by decide),
    rcon_of_div_eq (by decide) (by decide), rcon_of_div_eq (by decide) (by decide)⟩

/-- Settles O24: the effect of XORRCON, retired, and the round constant in and out of range. -/
theorem xorrconChangesOnlyTheFirstByte : Obligations.XorrconChangesOnlyTheFirstByte := by
  refine ⟨decode_eq_command_iff.2 rfl, fun s => ⟨exec_eq_effect .xorrcon s, fun h1 h8 => ?_, fun hout => ?_⟩⟩
  · rw [rcon_of_div_eq h1 h8 rfl]
    exact BitVec.toNat_twoPow_of_lt (by omega)
  · have hzero : rcon s.widx.toNat = 0#8 := rcon_of_outOfRange (by omega)
    rw [exec_eq_effect, effect, xorRcon_of_rcon_eq_zero hzero]
    rfl

end Sys2Proof.Machine
end

section
/-! PROOFS. KEYSTEP (43_key_schedule.md R141 to R147): the generator step at index `WIDX`, and consecutive KEYSTEPs as
the key schedule. -/

namespace Sys2Proof.Machine

/-! ## The generator's transform, case by case -/

/-- SubWord on the S-box table of 41_substitution.md R100. -/
theorem subWord_eq_sbox (w : Word) :
    subWord w = #v[Reference.sbox w[0], Reference.sbox w[1], Reference.sbox w[2], Reference.sbox w[3]] := by
  rw [← word_eta (subWord w)]
  simp only [getElem_subWord, substitute_eq_sbox]

/-- At `q = 0` byte `k` of the result comes from byte `k + 1` of the source word, and the first byte takes the round
constant (43_key_schedule.md R142). -/
theorem scratchTransform_bytes_of_mod_eq_zero {j : Nat} (h : j % 8 = 0) (w : Word) :
    scratchTransform j w = #v[Reference.sbox w[1] ^^^ rcon j, Reference.sbox w[2], Reference.sbox w[3],
      Reference.sbox w[0]] := by
  rw [scratchTransform_of_mod_eq_zero h, subWord_eq_sbox]
  rfl

/-- At `q = 4` the scratch word is substituted only (43_key_schedule.md R142). -/
theorem scratchTransform_of_mod_eq_four {j : Nat} (h : j % 8 = 4) (w : Word) : scratchTransform j w = subWord w := by
  have h0 : j % 8 ≠ 0 := by omega
  rw [scratchTransform, if_neg h0, if_pos h]

/-- At every other `q` the scratch word is the source word (43_key_schedule.md R142). -/
theorem scratchTransform_of_mod_ne {j : Nat} (h0 : j % 8 ≠ 0) (h4 : j % 8 ≠ 4) (w : Word) :
    scratchTransform j w = w := by
  rw [scratchTransform, if_neg h0, if_neg h4]

/-! ## One KEYSTEP -/

/-- `WIDX` advances modulo 256 (43_key_schedule.md R147). -/
theorem byte_add_one (b : Byte) : b + 1 = BitVec.ofNat 8 ((b.toNat + 1) % 256) :=
  BitVec.eq_of_toNat_eq (by simp)

/-- Settles O29: the effect of KEYSTEP, retired; then the generator's frame and its three transforms. -/
theorem keystepRunsOneGeneratorStep : Obligations.KeystepRunsOneGeneratorStep := by
  refine ⟨decode_eq_command_iff.2 rfl, fun s => ⟨keyGen s.widx.toNat s.key, ?completion, ?below, fun h8 => ?_⟩⟩
  case completion =>
    rw [← byte_add_one]
    exact exec_eq_effect .keystep s
  case below => exact fun hlt => keyGen_of_lt hlt s.key
  refine ⟨?frame, ?sink⟩
  case frame => exact fun w hw => keyWord_keyGen_other (fun e => hw (congrArg Fin.val e)) s.key
  case sink =>
    intro p q hp hq
    obtain rfl : p = slot (s.widx.toNat - 1) := Fin.ext hp
    obtain rfl : q = slot s.widx.toNat := Fin.ext hq
    rw [keyWord_keyGen_sink h8]
    refine ⟨fun h0 => ?_, fun h4 => ?_, fun h0 h4 => ?_⟩
    · rw [scratchTransform_bytes_of_mod_eq_zero h0]
    · rw [scratchTransform_of_mod_eq_four h4, subWord_eq_sbox]
    · rw [scratchTransform_of_mod_ne h0 h4]

/-! ## Consecutive KEYSTEPs -/

/-- A buffer that held the schedule before index `j` holds it through `j` after `KeyGen(j)`; below 8 it stays at the key
itself (43_key_schedule.md R141, R144). -/
theorem HoldsSchedule.keyGen_at {key buf : KeyBuffer} :
    ∀ {j : Nat}, HoldsSchedule key (max 7 (j - 1)) buf → HoldsSchedule key (max 7 j) (keyGen j buf)
  | 0, h => by rwa [keyGen_of_lt (by decide)]
  | _ + 1, h => h.keyGen_max

/-- `k` KEYSTEPs from `WIDX = j` slide the window by `k` indices, as long as no index is taken modulo 256. -/
theorem runCommands_keysteps {key : KeyBuffer} (k : Nat) {j : Nat} {s : State} (hj : s.widx = BitVec.ofNat 8 j)
    (hk : j + k ≤ 256) (h : HoldsSchedule key (max 7 (j - 1)) s.key) :
    ∃ t : State, runCommands (List.replicate k .keystep) s = .next t ∧
      HoldsSchedule key (max 7 (j + k - 1)) t.key := by
  induction k generalizing j s with
  | zero => exact ⟨s, runCommands_nil s, h⟩
  | succ k ih =>
    have hidx : s.widx.toNat = j := by rw [hj, BitVec.toNat_ofNat]; omega
    have hwidx : (effect .keystep s).retire.widx = BitVec.ofNat 8 (j + 1) := by
      rw [BitVec.ofNat_add, ← hj]
      rfl
    have hkey : HoldsSchedule key (max 7 (j + 1 - 1)) (effect .keystep s).retire.key := by
      rw [State.retire_key, effect, hidx]
      exact h.keyGen_at
    obtain ⟨t, hrun, ht⟩ := ih hwidx (by omega) hkey
    refine ⟨t, ?_, ?_⟩
    · rw [List.replicate_succ, runCommands_cons, hrun]
    · rwa [Nat.add_right_comm] at ht

/-- Settles O30: the key holds its own first eight words, and the KEYSTEPs slide that window up to `n`. -/
theorem keystepsProduceTheKeySchedule : Obligations.KeystepsProduceTheKeySchedule := by
  intro s n hstart h8 hn
  have hself : HoldsSchedule s.key (max 7 (s.widx.toNat - 1)) s.key := by
    rw [max_eq_left (by omega)]
    exact holdsSchedule_self s.key
  have hwidx : s.widx = BitVec.ofNat 8 s.widx.toNat := by simp
  obtain ⟨t, hrun, ht⟩ := runCommands_keysteps (n + 1 - s.widx.toNat) hwidx (by omega) hself
  have hlast : max 7 (s.widx.toNat + (n + 1 - s.widx.toNat) - 1) = n := by omega
  rw [hlast] at ht
  exact ⟨t, hrun, fun m hlow hhigh => ht m hhigh (by omega)⟩

end Sys2Proof.Machine
end

section
/-! PROOFS. The state transforms (44_state_transforms.md R160 to R175): each transform byte by byte, the five commands
that perform one each, and an iteration of the driver as a sequence of commands. -/

namespace Sys2Proof.Machine

/-! ## Doubling in the field -/

/-- With bit 7 set the doubled byte is reduced (44_state_transforms.md R162). -/
theorem xtime_toNat_of_high {b : Byte} (h : b.getLsbD 7 = true) : (xtime b).toNat = (b.toNat * 2 % 256) ^^^ 0x1B := by
  rw [xtime, if_pos h, BitVec.toNat_xor, BitVec.toNat_shiftLeft, Nat.shiftLeft_eq]
  rfl

/-- With bit 7 clear twice the byte is a byte (44_state_transforms.md R162). -/
theorem xtime_toNat_of_low {b : Byte} (h : b.getLsbD 7 = false) : (xtime b).toNat = b.toNat * 2 := by
  have hhigh : ¬ b.getLsbD 7 = true := Bool.eq_false_iff.1 h
  have hlt : 2 * b.toNat < 2 ^ 8 := BitVec.msb_eq_false_iff_two_mul_lt.1 (b.msb_eq_getLsbD_last.trans h)
  rw [xtime, if_neg hhigh, BitVec.toNat_shiftLeft, Nat.shiftLeft_eq]
  exact Nat.mod_eq_of_lt (by omega)

/-- Settles O31: the two cases of bit 7, and the field's multiplication by 2. -/
theorem xtimeDoublesInTheField : Obligations.XtimeDoublesInTheField :=
  fun b => ⟨xtime_toNat_of_high, xtime_toNat_of_low, (gfMul_two b).symm⟩

/-! ## The transforms, byte by byte -/

/-- New byte `k` takes old byte `src[k]` (44_state_transforms.md R161). -/
theorem getElem_shiftRows (s : Block) (k : Fin 16) : (shiftRows s)[k] = s[Reference.shiftSource[k]] := by
  rw [shiftRows_eq_reference]
  exact Vector.getElem_ofFn k.isLt

/-- Substitution works byte by byte, so it may come before or after a permutation (44_state_transforms.md R166). -/
theorem shiftRows_subBytes (s : Block) : shiftRows (subBytes s) = subBytes (shiftRows s) := by
  refine block_ext_cell fun r c => ?_
  rw [cell_shiftRows, cell_subBytes, cell_subBytes, cell_shiftRows]

/-- Row `j` of the circulant matrix times the old column (44_state_transforms.md R164). -/
theorem cell_mixColumns_eq_matrixRow (s : Block) (j c : Fin 4) :
    cell (mixColumns s) j c = Reference.gfMul 2 (cell s j c) ^^^ Reference.gfMul 3 (cell s (j + 1) c) ^^^
      cell s (j + 2) c ^^^ cell s (j + 3) c := by
  rw [mixColumns_eq_reference, Reference.mixColumns, cell_ofCells]

theorem getElem_addRoundKey_lo (s : Block) (key : KeyBuffer) (k : Fin 16) :
    (addRoundKey s key .lo)[k] = s[k] ^^^ key[k.val] := by
  simp [addRoundKey]

theorem getElem_addRoundKey_hi (s : Block) (key : KeyBuffer) (k : Fin 16) :
    (addRoundKey s key .hi)[k] = s[k] ^^^ key[16 + k.val] := by
  simp [addRoundKey]

/-! ## The five commands -/

/-- A command whose effect is a new `STATE` completes with it, clears `BUSY` and changes nothing else. -/
theorem exec_of_effect_state {i : Instr} {s : State} {b : Block} (h : effect i s = { s with state := b }) :
    exec i s = .next { s with state := b, pend := none } := by
  rw [exec_eq_effect, h, State.retire]

/-- Settles O32: the effect of SUBBYTES, retired, read at each byte. -/
theorem subbytesSubstitutesEachByte : Obligations.SubbytesSubstitutesEachByte :=
  ⟨decode_eq_command_iff.2 rfl, fun s =>
    ⟨subBytes s.state, exec_of_effect_state rfl, fun k => getElem_subBytes s.state k k.isLt⟩⟩

/-- Settles O33: the effect of SHIFTROWS, retired, read by the table and by row and column. -/
theorem shiftrowsPermutesBytes : Obligations.ShiftrowsPermutesBytes :=
  ⟨decode_eq_command_iff.2 rfl, fun s =>
    ⟨shiftRows s.state, exec_of_effect_state rfl, getElem_shiftRows s.state, cell_shiftRows s.state⟩⟩

/-- Settles O34: the effect of MIXCOLUMNS, retired, read at each cell. -/
theorem mixcolumnsMixesEachColumn : Obligations.MixcolumnsMixesEachColumn :=
  ⟨decode_eq_command_iff.2 rfl, fun s =>
    ⟨mixColumns s.state, exec_of_effect_state rfl, fun c j => cell_mixColumns s.state j c⟩⟩

/-- Settles O35: each row of the matrix, its terms put in the order of the column. -/
theorem mixcolumnsIsTheMatrixProduct : Obligations.MixcolumnsIsTheMatrixProduct := by
  refine fun s => ⟨mixColumns s.state, exec_of_effect_state rfl, fun c => ?_⟩
  refine ⟨cell_mixColumns_eq_matrixRow s.state 0 c, (cell_mixColumns_eq_matrixRow s.state 1 c).trans ?row1,
    (cell_mixColumns_eq_matrixRow s.state 2 c).trans ?row2, (cell_mixColumns_eq_matrixRow s.state 3 c).trans ?row3⟩
  case row1 =>
    show _ ^^^ _ ^^^ cell s.state 3 c ^^^ cell s.state 0 c = _
    ac_rfl
  case row2 =>
    show _ ^^^ _ ^^^ cell s.state 0 c ^^^ cell s.state 1 c = _
    ac_rfl
  case row3 =>
    show _ ^^^ Reference.gfMul 3 (cell s.state 0 c) ^^^ cell s.state 1 c ^^^ cell s.state 2 c = _
    ac_rfl

/-- Settles O36: the effect of ARK_LO, retired, read at each byte. -/
theorem arkLoXorsTheLowHalf : Obligations.ArkLoXorsTheLowHalf :=
  ⟨decode_eq_command_iff.2 rfl, fun s =>
    ⟨addRoundKey s.state s.key .lo, exec_of_effect_state rfl, getElem_addRoundKey_lo s.state s.key⟩⟩

/-- Settles O37: the effect of ARK_HI, retired, read at each byte. -/
theorem arkHiXorsTheHighHalf : Obligations.ArkHiXorsTheHighHalf :=
  ⟨decode_eq_command_iff.2 rfl, fun s =>
    ⟨addRoundKey s.state s.key .hi, exec_of_effect_state rfl, getElem_addRoundKey_hi s.state s.key⟩⟩

/-- Settles O38: both orders complete, with the same block. -/
theorem subbytesAndShiftrowsCommute : Obligations.SubbytesAndShiftrowsCommute := by
  intro s
  simp only [runCommands_cons, runCommands_nil, effect, State.retire]
  rw [shiftRows_subBytes]

/-! ## An iteration of the driver as commands -/

/-- The command that adds a half of `KEY` (44_state_transforms.md R173, R174). -/
def arkCommand : Half → Instr
  | .lo => .arkLo
  | .hi => .arkHi

theorem effect_arkCommand (h : Half) (s : State) :
    effect (arkCommand h) s = { s with state := addRoundKey s.state s.key h } := by
  cases h <;> rfl

/-- The commands of a round (44_state_transforms.md R175). -/
def roundCommands (h : Half) (mix : Bool) : List Instr :=
  if mix then [.subbytes, .shiftrows, .mixcolumns, arkCommand h] else [.subbytes, .shiftrows, arkCommand h]

theorem runCommands_roundCommands (h : Half) (mix : Bool) (s : State) :
    runCommands (roundCommands h mix) s =
      .next (State.retire { s with state := cipherRound s.state s.key h mix }) := by
  cases mix with
  | true =>
    show runCommands [.subbytes, .shiftrows, .mixcolumns, arkCommand h] s = _
    simp only [runCommands_cons, runCommands_nil, effect_arkCommand]
    simp only [effect, State.retire, cipherRound, ite_true]
  | false =>
    show runCommands [.subbytes, .shiftrows, arkCommand h] s = _
    simp only [runCommands_cons, runCommands_nil, effect_arkCommand]
    simp only [effect, State.retire, cipherRound, Bool.false_eq_true, ite_false]

/-- The commands that do to `STATE` what iteration `i` does after its generator step (45_orchestrator.md R190, R192). -/
def iterationCommands (i : Nat) : List Instr :=
  match phase i with
  | .transformFirstHalf => roundCommands .lo (!finalIteration i)
  | .transformSecondHalf => roundCommands .hi true
  | .expandOnly => []

/-- On a retired state, since an expansion-only iteration has no command to clear `PEND`. -/
theorem runCommands_iterationCommands (i : Nat) (s : State) :
    runCommands (iterationCommands i) s.retire =
      .next (State.retire { s with state := iterationRound i s.key s.state }) := by
  unfold iterationCommands iterationRound
  cases phase i with
  | expandOnly => exact runCommands_nil s.retire
  | transformFirstHalf => exact runCommands_roundCommands .lo _ s.retire
  | transformSecondHalf => exact runCommands_roundCommands .hi true s.retire

/-- The commands of each iteration, written out (45_orchestrator.md R190). -/
theorem iterationCommands_eq (i : Nat) :
    iterationCommands i =
      if i = 56 then [.subbytes, .shiftrows, .arkLo]
      else if i % 8 = 0 then [.subbytes, .shiftrows, .mixcolumns, .arkLo]
      else if i % 8 = 4 then [.subbytes, .shiftrows, .mixcolumns, .arkHi]
      else [] := by
  unfold iterationCommands phase
  by_cases hfinal : i = 56
  · subst hfinal
    rfl
  rw [if_neg hfinal]
  by_cases hfirst : i % 8 = 0
  · have hmix : finalIteration i = false := by simpa [finalIteration] using hfinal
    rw [if_pos hfirst, if_pos hfirst, hmix]
    rfl
  rw [if_neg hfirst, if_neg hfirst]
  by_cases hsecond : i % 8 = 4
  · rw [if_pos (by omega), if_pos hsecond]
    rfl
  · rw [if_neg (by omega), if_neg hsecond]

/-- Settles O45: KEYSTEP at `WIDX = ITER + 4` is the iteration's generator step, and the transforms then read its
`KEY`. -/
theorem encStepEqualsItsPrimitives : Obligations.EncStepEqualsItsPrimitives := by
  intro s hlow hhigh hwidx
  have hstep : exec .encStep s = .next s.iterate.retire := by
    rw [exec_eq_effect, effect, State.encStepBody_of_inRange hlow hhigh]
  have hkey : (effect .keystep s).key = keyGen (s.iter.toNat + wordIndexOffset) s.key := by
    rw [effect, hwidx, wordIndexOffset]
  rw [← iterationCommands_eq, runCommands_cons, runCommands_iterationCommands, hkey]
  exact ⟨_, _, hstep, rfl, rfl, rfl⟩

end Sys2Proof.Machine
end

section
/-! PROOFS. The driver's commands one by one (45_orchestrator.md R191 to R197), and that the engine's control does not
depend on the secrets (R199). -/

namespace Sys2Proof.Machine

/-! ## NOP and ENC_INIT -/

/-- Completion of NOP only clears `BUSY` (45_orchestrator.md R197). -/
theorem exec_nop (s : State) : exec .nop s = .next { s with pend := none } := exec_eq_effect .nop s

/-- Settles O20: NOP's completion, between its acceptance and the drop of a busy write. -/
theorem nopOnlyClearsBusy : Obligations.NopOnlyClearsBusy := by
  have hdecode : decode [0x00#8] = .command .nop [] := decode_eq_command_iff.2 rfl
  refine ⟨hdecode, exec_nop, fun s rest => ⟨?accepted, ?completed, fun a v ha => ?busyWrite⟩⟩
  case accepted => exact (legalCommandIsAcceptedOnlyWhenIdle s 0x00 rest).1 .nop hdecode
  case completed =>
    exact (step_engine_of_pending (s := { s with pend := some .nop }) rfl rest).trans (exec_nop _)
  case busyWrite => exact (busyWriteIsDroppedWithErrBusy s .nop a v rest).1 ha

/-- Settles O40: the effect of ENC_INIT, retired, read at each byte. -/
theorem encInitAddsRoundKeyZero : Obligations.EncInitAddsRoundKeyZero :=
  ⟨decode_eq_command_iff.2 rfl, fun s =>
    ⟨addRoundKey s.state s.key .lo, exec_eq_effect .encInit s, getElem_addRoundKey_lo s.state s.key⟩⟩

/-! ## ENC_STEP -/

/-- Where 8 divides the iteration the round reads the low half, and mixes columns but at 56 (45_orchestrator.md R190). -/
theorem iterationRound_of_mod_eq_zero {i : Nat} (h : i % 8 = 0) (key : KeyBuffer) (s : Block) :
    iterationRound i key s = cipherRound s key .lo (!finalIteration i) := by
  rw [iterationRound, phase, if_pos h]

/-- Half-way between, the round reads the high half and always mixes columns (45_orchestrator.md R190). -/
theorem iterationRound_of_add_four_mod_eq_zero {i : Nat} (h : (i + 4) % 8 = 0) (key : KeyBuffer) (s : Block) :
    iterationRound i key s = cipherRound s key .hi true := by
  rw [iterationRound, phase, if_neg (by omega), if_pos h]

theorem byte_add_one_of_lt {b : Byte} (h : b.toNat < 255) : b + 1 = BitVec.ofNat 8 (b.toNat + 1) := by
  rw [byte_add_one, Nat.mod_eq_of_lt (by omega)]

/-- ENC_STEP in range: the generator step, the round on the key it leaves, the next iteration
(45_orchestrator.md R192). -/
theorem exec_encStep_of_inRange {s : State} (h1 : 1 ≤ s.iter.toNat) (h2 : s.iter.toNat ≤ 59) :
    exec .encStep s = .next { s with
      key := keyGen (s.iter.toNat + 4) s.key
      state := iterationRound s.iter.toNat (keyGen (s.iter.toNat + 4) s.key) s.state
      iter := BitVec.ofNat 8 (s.iter.toNat + 1)
      pend := none } := by
  rw [exec_eq_effect, effect, State.encStepBody_of_inRange h1 h2, ← byte_add_one_of_lt (by omega)]
  rfl

/-- Settles O41: the iteration's round by the residue of `ITER` modulo 8, and the error out of range. -/
theorem encStepRunsOneIteration : Obligations.EncStepRunsOneIteration := by
  refine ⟨decode_eq_command_iff.2 rfl, fun s => ⟨fun hout => ?_, fun h1 h2 => ?_⟩⟩
  · rw [exec_eq_effect, effect, State.encStepBody_of_outOfRange hout]
    rfl
  · refine ⟨_, _, exec_encStep_of_inRange h1 h2, rfl, fun hlow hne => ?mixed, fun hfinal => ?final,
      fun hhigh => ?high, fun hother => ?expandOnly⟩
    case mixed =>
      have hmix : finalIteration s.iter.toNat = false := beq_false_of_ne hne
      rw [iterationRound_of_mod_eq_zero hlow, hmix]
      rfl
    case final =>
      rw [hfinal]
      rfl
    case high =>
      rw [iterationRound_of_add_four_mod_eq_zero hhigh]
      rfl
    case expandOnly => exact iterationRound_of_not_four_dvd hother _ s.state

/-! ## ENCRYPT -/

/-- Settles O42: both sequences are the 59 ENC_STEP bodies after that of ENC_INIT, with the frame of ENCRYPT. -/
theorem encryptIsInitAndFiftyNineSteps : Obligations.EncryptIsInitAndFiftyNineSteps := by
  refine ⟨decode_eq_command_iff.2 rfl, fun s => ?_⟩
  refine ⟨(effect .encrypt s).retire, exec_eq_effect .encrypt s, runCommands_encInit_encSteps 59 s, ?_⟩
  obtain ⟨key, b, h⟩ := effect_encrypt_frame s
  rw [h]
  rfl

/-- Settles O43: the driver's progress after `4r` iterations, where the window ends at `w_{4r+4}` and so still holds
round key `r` whole. -/
theorem everyRoundUsesItsRoundKey : Obligations.EveryRoundUsesItsRoundKey := by
  intro s r h1 h14
  obtain ⟨hiter, hkey, hstate⟩ := driverProgress_encSteps s (4 * r) (by omega)
  have hround : 4 * r / 4 = r := by omega
  rw [hround] at hstate
  have hroundKey := hkey.keyHalf_eq (r := r) (by omega) (by omega)
  refine ⟨_, runCommands_encInit_encSteps (4 * r) s, hiter, hroundKey, fun h => ?_, fun h => ?_⟩
  · exact hstate.trans (blockAfterRounds_of_lt (by omega) s.key s.state)
  · subst h
    rw [State.retire_state, hstate, blockAfterRounds_last]

/-! ## Control without the secrets (45_orchestrator.md R199)

Each operation is compared with the same operation on the state whose secrets are erased. -/

/-- The state with control part `c` whose `KEY`, `STATE`, `WORD` and bytes read are those of reset. -/
def Control.toState (c : Control) : State :=
  { State.reset with
    widx := c.widx, iter := c.iter, sboxIn := c.sboxIn, errIll := c.errIll, errBusy := c.errBusy, errSeq := c.errSeq,
    pend := c.pend, inputs := c.inputs }

theorem State.command_control (s : State) (v : Byte) :
    (s.control.toState.command v).control = (s.command v).control := by
  rw [State.command, State.command]
  cases decode [v] <;> rfl

theorem State.writeReg_control (s : State) (v : Byte) (r : WindowReg) :
    (s.control.toState.writeReg v r).control = (s.writeReg v r).control := by
  cases r with
  | cmd => exact s.command_control v
  | _ => rfl

theorem State.memWrite_control (s : State) (a : Addr) (v : Byte) :
    (s.control.toState.memWrite a v).control = (s.memWrite a v).control := by
  by_cases ha : a = 0x31
  · subst ha
    rw [State.memWrite_status, State.memWrite_status]
    rfl
  · cases hp : s.pend with
    | none =>
      rw [State.memWrite_of_idle hp, State.memWrite_of_idle (s := s.control.toState) hp]
      exact s.writeReg_control v (decodeAddr a)
    | some i =>
      rw [State.memWrite_of_busy hp ha, State.memWrite_of_busy (s := s.control.toState) hp ha]
      rfl

theorem State.encStepBody_control (s : State) : s.control.toState.encStepBody.control = s.encStepBody.control := by
  by_cases hout : s.iter.toNat < 1 ∨ 59 < s.iter.toNat
  · rw [State.encStepBody_of_outOfRange hout, State.encStepBody_of_outOfRange (s := s.control.toState) hout]
    rfl
  · have h1 : 1 ≤ s.iter.toNat := by omega
    have h2 : s.iter.toNat ≤ 59 := by omega
    rw [State.encStepBody_of_inRange h1 h2, State.encStepBody_of_inRange (s := s.control.toState) h1 h2]
    dsimp only [State.control, State.iterate, Control.toState]

theorem effect_control (i : Instr) (s : State) : (effect i s.control.toState).control = (effect i s).control := by
  cases i with
  | encStep => exact s.encStepBody_control
  | encrypt =>
    obtain ⟨key, b, h⟩ := effect_encrypt_frame s
    obtain ⟨key', b', h'⟩ := effect_encrypt_frame s.control.toState
    rw [h, h']
    rfl
  | encInit => dsimp only [effect, State.control, State.encInitBody, Control.toState]
  | _ => dsimp only [effect, State.control, Control.toState]

theorem State.retire_control (s : State) : s.retire.control = { s.control with pend := none } := rfl

/-- The control part that a step leaves, if it leaves a state. -/
def controlAfter : Host.Outcome State Fault Refusal → Option Control
  | .next s => some s.control
  | .fault _ => none
  | .refused _ => none

theorem controlAfter_engineTurn (s : State) :
    controlAfter (engineTurn s.control.toState) = controlAfter (engineTurn s) := by
  have hpend : s.control.toState.pend = s.pend := rfl
  rw [engineTurn, engineTurn, hpend]
  cases s.pend with
  | none => rfl
  | some i => simp only [exec_eq_effect, controlAfter, State.retire_control, effect_control]

/-- The control part after a step is a function of the control part before it. -/
theorem controlAfter_step (s : State) : controlAfter (step s.control.toState) = controlAfter (step s) := by
  obtain ⟨key, state, word, widx, iter, sboxIn, e1, e2, e3, pend, inputs, reads⟩ := s
  cases inputs with
  | nil => exact controlAfter_engineTurn _
  | cons e rest =>
    cases e with
    | engine => exact controlAfter_engineTurn ⟨key, state, word, widx, iter, sboxIn, e1, e2, e3, pend, rest, reads⟩
    | write a v =>
      exact congrArg some
        (State.memWrite_control ⟨key, state, word, widx, iter, sboxIn, e1, e2, e3, pend, rest, reads⟩ a v)
    | read a => rfl
    | reset => rfl

/-- Settles O56: equal control parts are the same state once the secrets are erased. -/
theorem controlDoesNotDependOnSecrets : Obligations.ControlDoesNotDependOnSecrets := by
  intro s₁ s₂ t₁ t₂ h h₁ h₂
  refine Option.some.inj ?_
  calc some t₁.control
    _ = controlAfter (step s₁) := by rw [h₁]; rfl
    _ = controlAfter (step s₁.control.toState) := (controlAfter_step s₁).symm
    _ = controlAfter (step s₂.control.toState) := by rw [h]
    _ = controlAfter (step s₂) := controlAfter_step s₂
    _ = some t₂.control := by rw [h₂]; rfl

end Sys2Proof.Machine
end

section
/-! PROOFS. The error flags (60_exceptions.md R220 to R223): no step stops, and what one step does to each flag. -/

namespace Sys2Proof.Machine

/-- Settles O46: each event of a step answers a next state (`step_cases`). -/
theorem everyStepGoesOn : Obligations.EveryStepGoesOn := by
  intro s
  rcases step_cases s with ⟨i, -, -, e⟩ | ⟨-, -, e⟩ | ⟨a, -, e⟩ | ⟨a, v, -, e⟩ | ⟨-, e⟩ <;> exact ⟨_, e⟩

/-! ## What raises and what clears a flag -/

/-- The condition of each flag holds in the next step of `s` (60_exceptions.md R221). -/
def ErrFlag.causedIn (s : State) : ErrFlag → Prop
  | .ill => s.pend = none ∧ ∃ v : Byte, s.inputs.head? = some (.write 0x30 v) ∧ 0x0D ≤ v.toNat
  | .busy => s.pend ≠ none ∧ ∃ (a : Addr) (v : Byte), s.inputs.head? = some (.write a v) ∧ a ≠ 0x31
  | .seq => s.pend = some .encStep ∧ (s.iter.toNat < 1 ∨ 59 < s.iter.toNat) ∧
      (s.inputs = [] ∨ s.inputs.head? = some .engine)

/-- The next step of `s` is a reset or a `STATUS` write that acknowledges the flag (60_exceptions.md R222). -/
def ErrFlag.clearedIn (s : State) (f : ErrFlag) : Prop :=
  s.inputs.head? = some .reset ∨ ∃ v : Byte, s.inputs.head? = some (.write 0x31 v) ∧ v.getLsbD f.code = true

/-- The engine takes its turn only when no other event is next. -/
theorem eq_engine_of_turn {s : State} {e : Event} (hturn : s.inputs = [] ∨ s.inputs.head? = some .engine)
    (he : s.inputs.head? = some e) : e = .engine := by
  rcases hturn with h | h
  · simp [h] at he
  · exact Option.some.inj (he.symm.trans h)

/-- The engine's turn raises nothing but `ERR_SEQ`. -/
theorem causedIn_iff_of_turn {s : State} (hturn : s.inputs = [] ∨ s.inputs.head? = some .engine) (f : ErrFlag) :
    f.causedIn s ↔ s.pend = some .encStep ∧ (s.iter.toNat < 1 ∨ 59 < s.iter.toNat) ∧ f = .seq := by
  cases f with
  | ill => exact ⟨fun ⟨_, _, he, _⟩ => (nomatch eq_engine_of_turn hturn he), nofun⟩
  | busy => exact ⟨fun ⟨_, _, _, he, _⟩ => (nomatch eq_engine_of_turn hturn he), nofun⟩
  | seq => simp [ErrFlag.causedIn, hturn]

theorem eq_seq_of_turn {s : State} (hturn : s.inputs = [] ∨ s.inputs.head? = some .engine) {f : ErrFlag}
    (hf : f.causedIn s) : f = .seq := by
  obtain ⟨-, -, hseq⟩ := (causedIn_iff_of_turn hturn f).1 hf
  exact hseq

/-- The engine's turn clears nothing. -/
theorem not_clearedIn_of_turn {s : State} (hturn : s.inputs = [] ∨ s.inputs.head? = some .engine) (f : ErrFlag) :
    ¬ f.clearedIn s := by
  rintro (he | ⟨v, he, -⟩)
  · exact nomatch eq_engine_of_turn hturn he
  · exact nomatch eq_engine_of_turn hturn he

/-- What a host write raises: `ERR_ILL` while idle, `ERR_BUSY` while busy. -/
theorem causedIn_iff_of_write {s : State} {a : Addr} {v : Byte} (hw : s.inputs.head? = some (.write a v))
    (f : ErrFlag) :
    f.causedIn s ↔ (s.pend = none ∧ a = 0x30 ∧ 0x0D ≤ v.toNat ∧ f = .ill) ∨ (s.pend ≠ none ∧ a ≠ 0x31 ∧ f = .busy) := by
  cases f with
  | ill => simp [ErrFlag.causedIn, hw]
  | busy => simp [ErrFlag.causedIn, hw]
  | seq => simpa using fun (⟨_, _, hturn⟩ : ErrFlag.causedIn s .seq) => nomatch eq_engine_of_turn hturn hw

/-- The one host write that clears a flag is to `STATUS`. -/
theorem clearedIn_iff_of_write {s : State} {a : Addr} {v : Byte} (hw : s.inputs.head? = some (.write a v))
    (f : ErrFlag) : f.clearedIn s ↔ a = 0x31 ∧ v.getLsbD f.code = true := by
  simp [ErrFlag.clearedIn, hw]

/-- A host read raises nothing and clears nothing. -/
theorem not_causedIn_and_not_clearedIn_of_read {s : State} {a : Addr} (hr : s.inputs.head? = some (.read a))
    (f : ErrFlag) : ¬ f.causedIn s ∧ ¬ f.clearedIn s := by
  refine ⟨?_, by simp [ErrFlag.clearedIn, hr]⟩
  cases f with
  | ill | busy => simp [ErrFlag.causedIn, hr]
  | seq => exact fun ⟨_, _, hturn⟩ => nomatch eq_engine_of_turn hturn hr

/-- A reset raises nothing. -/
theorem not_causedIn_of_reset {s : State} (hr : s.inputs.head? = some .reset) (f : ErrFlag) : ¬ f.causedIn s := by
  cases f with
  | ill | busy => simp [ErrFlag.causedIn, hr]
  | seq => exact fun ⟨_, _, hturn⟩ => nomatch eq_engine_of_turn hturn hr

/-- The three conditions exclude each other: one needs an idle engine, and of the two others one needs a host write and
one the engine's turn (60_exceptions.md R223). -/
theorem causedIn_unique {s : State} {f g : ErrFlag} (hf : f.causedIn s) (hg : g.causedIn s) : f = g := by
  rcases step_cases s with ⟨-, -, hturn, -⟩ | ⟨-, hturn, -⟩ | ⟨a, hr, -⟩ | ⟨a, v, hw, -⟩ | ⟨hr, -⟩
  · exact (eq_seq_of_turn hturn hf).trans (eq_seq_of_turn hturn hg).symm
  · exact (eq_seq_of_turn hturn hf).trans (eq_seq_of_turn hturn hg).symm
  · exact absurd hf (not_causedIn_and_not_clearedIn_of_read hr f).1
  · rcases (causedIn_iff_of_write hw f).1 hf with ⟨hp, -, -, rfl⟩ | ⟨hp, -, rfl⟩ <;>
      rcases (causedIn_iff_of_write hw g).1 hg with ⟨hq, -, -, rfl⟩ | ⟨hq, -, rfl⟩
    · rfl
    · exact absurd hp hq
    · exact absurd hq hp
    · rfl
  · exact absurd hf (not_causedIn_of_reset hr f)

/-! ## What a completion and a host write do to a flag -/

/-- The flags do not depend on the events to come. -/
@[simp] theorem State.flag_inputs (s : State) (rest : List Event) (f : ErrFlag) :
    State.flag { s with inputs := rest } f = s.flag f := by
  cases f <;> rfl

@[simp] theorem State.retire_flag (s : State) (f : ErrFlag) : s.retire.flag f = s.flag f := by
  cases f <;> rfl

@[simp] theorem State.accept_flag (s : State) (i : Instr) (f : ErrFlag) : (s.accept i).flag f = s.flag f := by
  cases f <;> rfl

@[simp] theorem State.hostRead_flag (s : State) (a : Addr) (f : ErrFlag) : (s.hostRead a).flag f = s.flag f := by
  cases f <;> rfl

@[simp] theorem State.iterate_flag (s : State) (f : ErrFlag) : s.iterate.flag f = s.flag f := by
  cases f <;> rfl

@[simp] theorem State.resetEngine_flag (s : State) (f : ErrFlag) : s.resetEngine.flag f = false := by
  cases f <;> rfl

theorem State.raiseErr_flag_iff (s : State) (g f : ErrFlag) :
    (s.raiseErr g).flag f = true ↔ f = g ∨ s.flag f = true := by
  rw [raiseErr_flag, Bool.or_eq_true, beq_iff_eq, or_comm, eq_comm]

/-- An ENC_STEP body out of range raises `ERR_SEQ`, and no other does anything to a flag (45_orchestrator.md R192). -/
theorem State.encStepBody_flag (s : State) (f : ErrFlag) :
    s.encStepBody.flag f = true ↔ ((s.iter.toNat < 1 ∨ 59 < s.iter.toNat) ∧ f = .seq) ∨ s.flag f = true := by
  by_cases hout : s.iter.toNat < 1 ∨ 59 < s.iter.toNat
  · simp only [encStepBody_of_outOfRange hout, raiseErr_flag_iff, hout, true_and]
  · rw [encStepBody_of_inRange (by omega) (by omega), iterate_flag]
    simp only [hout, false_and, false_or]

/-- Of the commands ENC_STEP alone raises a flag, and no command clears one (60_exceptions.md R221, R222). -/
theorem effect_flag (i : Instr) (s : State) (f : ErrFlag) :
    (effect i s).flag f = true ↔
      (i = .encStep ∧ (s.iter.toNat < 1 ∨ 59 < s.iter.toNat) ∧ f = .seq) ∨ s.flag f = true := by
  by_cases hi : i = .encStep
  · subst hi
    rw [effect, State.encStepBody_flag]
    simp only [true_and]
  · obtain ⟨key, b, word, widx, iter, seq, h, hseq⟩ := effect_frame i s
    obtain rfl := hseq hi
    have hflag : (effect i s).flag f = s.flag f := by rw [h]; cases f <;> rfl
    simp [hflag, hi]

/-- The bytes up to 0x0C are the commands (30_encoding.md R87). -/
theorem commandOf_eq_none_iff (v : Byte) : commandOf v = none ↔ 0x0D ≤ v.toNat :=
  ⟨fun h => Nat.not_lt.1 fun hlt => by simpa [h] using commandOf_isSome_of_legal hlt, commandOf_of_illegal⟩

theorem State.command_flag (s : State) (v : Byte) (f : ErrFlag) :
    (s.command v).flag f = true ↔ (0x0D ≤ v.toNat ∧ f = .ill) ∨ s.flag f = true := by
  rw [← commandOf_eq_none_iff]
  rcases s.command_cases v with ⟨i, hi, h⟩ | ⟨hi, h⟩ <;> rw [h]
  · simp [hi]
  · simp only [hi, raiseErr_flag_iff, true_and]

theorem State.writeReg_flag (s : State) (v : Byte) {r : WindowReg} (hcmd : r ≠ .cmd) (hstatus : r ≠ .status)
    (f : ErrFlag) : (s.writeReg v r).flag f = s.flag f := by
  cases r with
  | cmd => exact absurd rfl hcmd
  | status => exact absurd rfl hstatus
  | _ => cases f <;> rfl

/-- The flags after a host write (20_memory.md R65, 30_encoding.md R83, 10_state.md R35). -/
theorem State.memWrite_flag (s : State) (a : Addr) (v : Byte) (f : ErrFlag) :
    (s.memWrite a v).flag f = true ↔
      ((s.pend = none ∧ a = 0x30 ∧ 0x0D ≤ v.toNat ∧ f = .ill) ∨ (s.pend ≠ none ∧ a ≠ 0x31 ∧ f = .busy)) ∨
        (s.flag f = true ∧ ¬(a = 0x31 ∧ v.getLsbD f.code = true)) := by
  by_cases hstatus : a = 0x31
  · subst hstatus
    rw [memWrite_status, acknowledge_flag]
    simp
  cases hp : s.pend with
  | some i =>
    rw [memWrite_of_busy hp hstatus, raiseErr_flag_iff]
    simp only [hstatus, reduceCtorEq, ne_eq, not_false_eq_true, true_and, false_and, false_or, and_true]
  | none =>
    rw [memWrite_of_idle hp]
    by_cases hcmd : a = 0x30
    · subst hcmd
      have hcommand : s.writeReg v (decodeAddr 0x30) = s.command v := rfl
      rw [hcommand, command_flag]
      simp
    · rw [s.writeReg_flag v (mt (decodeAddr_eq_cmd_iff a).1 hcmd) (mt (decodeAddr_eq_status_iff a).1 hstatus)]
      simp only [hcmd, hstatus, ne_eq, not_true_eq_false, not_false_eq_true, false_and, and_false, false_or, and_true]

/-! ## Steps -/

/-- The flags after a step: those whose condition holds in it, and those already set that it does not clear
(60_exceptions.md R221, R222). -/
theorem step_flag {s t : State} (h : step s = .next t) (f : ErrFlag) :
    t.flag f = true ↔ f.causedIn s ∨ (s.flag f = true ∧ ¬ f.clearedIn s) := by
  rcases step_cases s with ⟨i, hp, hturn, e⟩ | ⟨hp, hturn, e⟩ | ⟨a, hr, e⟩ | ⟨a, v, hw, e⟩ | ⟨hr, e⟩ <;>
    obtain rfl := eq_of_step_eq h e
  · rw [causedIn_iff_of_turn hturn, State.retire_flag, effect_flag, State.flag_inputs]
    simp [hp, not_clearedIn_of_turn hturn]
  · rw [causedIn_iff_of_turn hturn, State.flag_inputs]
    simp [hp, not_clearedIn_of_turn hturn]
  · obtain ⟨hcaused, hcleared⟩ := not_causedIn_and_not_clearedIn_of_read hr f
    simp [hcaused, hcleared]
  · rw [causedIn_iff_of_write hw, clearedIn_iff_of_write hw, State.memWrite_flag, State.flag_inputs]
  · have hcleared : f.clearedIn s := .inl hr
    simp [not_causedIn_of_reset hr f, hcleared]

/-- Settles O51: a set flag that the step does not clear is set after it (`step_flag`). -/
theorem errorFlagsAreSticky : Obligations.ErrorFlagsAreSticky := by
  intro s t f h hset
  by_cases hcleared : f.clearedIn s
  · exact .inr hcleared
  · exact .inl ((step_flag h f).2 (.inr ⟨hset, hcleared⟩))

/-- A clear flag is set after a step exactly when its condition holds in it. -/
theorem step_flag_of_clear {s t : State} {f : ErrFlag} (h : step s = .next t) (hclear : s.flag f = false) :
    t.flag f = true ↔ f.causedIn s := by
  simp [step_flag h, hclear]

/-- Settles O52: the condition of each flag, written out. -/
theorem flagsRiseOnlyFromTheirCauses : Obligations.FlagsRiseOnlyFromTheirCauses := by
  intro s t f h hclear
  cases f with
  | ill | busy | seq => exact step_flag_of_clear h hclear

/-- Settles O53: both conditions hold in the step, and they exclude each other. -/
theorem aStepRaisesAtMostOneFlag : Obligations.AStepRaisesAtMostOneFlag := by
  intro s t f g h hf hf' hg hg'
  exact causedIn_unique ((step_flag_of_clear h hf).1 hf') ((step_flag_of_clear h hg).1 hg')

end Sys2Proof.Machine
end

section
/-! PROOFS. Reset and the end of a run (70_reset_and_hazards.md R250, R262, R263). -/

namespace Sys2Proof.Machine

/-- A reset event resets the engine, idle or busy (70_reset_and_hazards.md R250). -/
theorem step_reset (s : State) (rest : List Event) :
    step { s with inputs := .reset :: rest } = .next (State.resetEngine { s with inputs := rest }) := rfl

/-- Settles O15: every register of the reset state is filled with 0x00 bytes. -/
theorem resetSetsEveryField : Obligations.ResetSetsEveryField := by
  refine fun s rest => ⟨_, step_reset s rest, fun k => ?key, fun k => ?state, fun k => ?word,
    rfl, rfl, rfl, rfl, rfl, rfl, rfl, rfl, rfl⟩
  case key => exact Vector.getElem_replicate k.isLt
  case state => exact Vector.getElem_replicate k.isLt
  case word => exact Vector.getElem_replicate k.isLt

/-! ## The events still to come -/

/-- No command writes the events still to come. -/
theorem effect_inputs (i : Instr) (s : State) : (effect i s).inputs = s.inputs := by
  obtain ⟨key, b, word, widx, iter, seq, h, -⟩ := effect_frame i s
  rw [h]

/-- A step consumes one event, if one is left. -/
theorem step_inputs {s t : State} (h : step s = .next t) : t.inputs = s.inputs.tail := by
  rcases step_cases s with ⟨i, -, -, e⟩ | ⟨-, -, e⟩ | ⟨a, -, e⟩ | ⟨a, v, -, e⟩ | ⟨-, e⟩ <;>
    obtain rfl := eq_of_step_eq h e
  · rw [State.retire_inputs, effect_inputs]
  · rfl
  · rfl
  · obtain ⟨-, hinputs, -⟩ := State.memWrite_keeps { s with inputs := s.inputs.tail } a v
    exact hinputs
  · rfl

/-- With no event left the engine takes its turn, after which nothing is pending (log entry 2). -/
theorem step_pend_of_inputs_nil {s t : State} (h : step s = .next t) (hs : s.inputs = []) : t.pend = none := by
  rcases step_cases s with ⟨i, -, -, e⟩ | ⟨hidle, -, e⟩ | ⟨a, he, -⟩ | ⟨a, v, he, -⟩ | ⟨he, -⟩
  · exact eq_of_step_eq h e ▸ State.retire_pend _
  · exact eq_of_step_eq h e ▸ hidle
  all_goals simp [hs] at he

/-! ## An ended run -/

/-- A state with no event left and nothing pending is ended. -/
theorem State.ended_of_inputs_nil {s : State} (h : s.inputs = []) (hp : s.pend = none) : s.ended :=
  ⟨by simp [h], hp⟩

/-- The next event of an ended run is no bus access. -/
theorem State.ended.isAccess_head {s : State} (hs : s.ended) {e : Event} (he : s.inputs.head? = some e) :
    e.isAccess = false :=
  hs.1 e (List.mem_of_mem_head? he)

/-- A step of an ended run is a reset, or consumes an event and changes nothing else. -/
theorem step_of_ended {s t : State} (hs : s.ended) (h : step s = .next t) :
    t = { s with inputs := s.inputs.tail } ∨
      (s.inputs.head? = some .reset ∧ t = State.resetEngine { s with inputs := s.inputs.tail }) := by
  rcases step_cases s with ⟨i, hp, -, -⟩ | ⟨-, -, e⟩ | ⟨a, hr, -⟩ | ⟨a, v, hw, -⟩ | ⟨hreset, e⟩
  · exact absurd (hp.symm.trans hs.2) nofun
  · exact .inl (eq_of_step_eq h e)
  · exact absurd (hs.isAccess_head hr) nofun
  · exact absurd (hs.isAccess_head hw) nofun
  · exact .inr ⟨hreset, eq_of_step_eq h e⟩

/-- Settles O58: the two steps of an ended run accept nothing, and the events left are among those before. -/
theorem endedRunStaysEnded : Obligations.EndedRunStaysEnded := by
  intro s t hs h
  have ⟨hevents, hidle⟩ := hs
  have hinputs : ∀ e ∈ t.inputs, e.isAccess = false := fun e he =>
    hevents e (List.mem_of_mem_tail (step_inputs h ▸ he))
  rcases step_of_ended hs h with rfl | ⟨hreset, rfl⟩
  · exact ⟨⟨hinputs, hidle⟩, fun _ => rfl⟩
  · exact ⟨⟨hinputs, rfl⟩, fun hne => absurd hreset hne⟩

/-! ## Every run ends -/

/-- One step for each event and one more consume every event and complete what is then pending
(70_reset_and_hazards.md R262). -/
theorem run_consumes_inputs (events : List Event) {s : State} (hs : s.inputs = events) :
    ∃ t : State, Host.Core.run Sys2Proof.core (events.length + 1) s = .next t ∧ t.inputs = [] ∧ t.pend = none := by
  induction events generalizing s with
  | nil =>
    obtain ⟨t, ht⟩ := everyStepGoesOn s
    exact ⟨t, run_succ_of_step ht 0, by rw [step_inputs ht, hs, List.tail_nil], step_pend_of_inputs_nil ht hs⟩
  | cons e rest ih =>
    obtain ⟨t, ht⟩ := everyStepGoesOn s
    obtain ⟨u, hu, hend⟩ := ih (s := t) (by rw [step_inputs ht, hs, List.tail_cons])
    exact ⟨u, (run_succ_of_step ht _).trans hu, hend⟩

/-- The run of `s` has ended after `k` steps. -/
def State.endedAfter (s : State) (k : Nat) : Prop := ∃ t : State, Host.Core.run Sys2Proof.core k s = .next t ∧ t.ended

/-- Settles O57: the run has ended once every event is consumed, so there is a least number of steps after which it
has. -/
theorem everyRunEnds : Obligations.EveryRunEnds := by
  intro s
  classical
  obtain ⟨t, hrun, hinputs, hpend⟩ := run_consumes_inputs s.inputs rfl
  have hended : s.endedAfter (s.inputs.length + 1) := ⟨t, hrun, State.ended_of_inputs_nil hinputs hpend⟩
  have hexists : ∃ k, s.endedAfter k := ⟨_, hended⟩
  obtain ⟨u, hfirst, huEnded⟩ := Nat.find_spec hexists
  refine ⟨⟨Nat.find hexists, u, Nat.find_min' hexists hended, hfirst, huEnded, fun j v hj hv hvEnded => ?minimal⟩,
    t, hrun, hinputs, State.ended_of_inputs_nil hinputs hpend⟩
  case minimal => exact Nat.find_min hexists hj ⟨v, hv, hvEnded⟩

end Sys2Proof.Machine
end
